-- ==== Sys2Proof/Word.lean ====
section
/-! DEFINITION. The word types of MMS-ASC (spec/00_scope.md R9): a command word is 32 bits, bit 0 the least
significant; a host bus may carry it as bytes (spec/20_memory.md R63). Samples, amplitudes and counts are computed
as `Int` and `Nat` (R10: exact integers, no hidden overflow) and narrowed where a register is written. -/

namespace Sys2Proof

/-- A 32-bit word of the command port or the read-data lines (R63). -/
abbrev Word := BitVec 32

/-- One byte of a host bus that carries a word as four bytes (R63). -/
abbrev Byte := BitVec 8

end Sys2Proof
end

