-- ==== Sys2Proof/Config.lean ====
section
/-! DEFINITION. The implementation parameters of spec/00_scope.md R7. The widths `PHASE_BITS` = 32, `INDEX_BITS` = 8
and `SAMPLE_BITS` = 16, and `VOICES` = 1, are fixed and stand in the types. `SR` is the one parameter a model takes as
an argument (decision D13): it is a field of `Config`, which a machine state carries and no step writes (DESIGN CHOICE, log 1). The
spec leaves no result of an instruction undefined, so there is no free value here. -/

namespace Sys2Proof

/-- The configuration a block is built with: the sample rate `SR` in Hz (R7, R8). -/
structure Config where
  sampleRate : Nat
  deriving DecidableEq, Repr

namespace Config

/-- R7: the default `SR`, 20000 Hz. -/
def default : Config := { sampleRate := 20000 }

/-- R7: `SR` must satisfy 1 ≤ SR ≤ 2^24 − 1; a value outside is refused (spec/93 I8). -/
abbrev Wf (c : Config) : Prop := 1 ≤ c.sampleRate ∧ c.sampleRate ≤ 2 ^ 24 - 1

/-- R2: the identity string of this configuration. -/
def identity : String := "MMS-ASC v1 (1 voice, PHASE_BITS=32, INDEX_BITS=8, SAMPLE=s16)"

/-- R7: `AMP_FULL`, full-scale envelope amplitude in permille. -/
abbrev ampFull : Nat := 1000

/-- R7: `LFSR_TAPS`, the tap mask of the noise LFSR. -/
abbrev lfsrTaps : BitVec 16 := 0xB400#16

/-- R7: `LFSR_SEED`, the reset value of the noise LFSR. -/
abbrev lfsrSeed : BitVec 16 := 0xACE1#16

/-- R7: `COMP_KNEE_HZ`, the frequency at which gain compensation stops rising. -/
abbrev compKneeHz : Nat := 4000

/-- R7: `COMP_BOOST_Q7`, the extra gain at and above the knee, in units of 1/128. -/
abbrev compBoostQ7 : Nat := 64

/-- R7: `SAT_MAX`, the top of the representable sample range. -/
abbrev satMax : Int := 32767

/-- R7: `SAT_MIN`, the bottom of the representable sample range. -/
abbrev satMin : Int := -32768

end Config

end Sys2Proof
end

