-- ==== Sys2Proof/Syntax.lean ====
section
/-! DEFINITION. The instructions of MMS-ASC: one constructor per row of spec/opcode_table.json (spec/30_encoding.md
R83), each operand a bit vector of its field's width (R82), so that an operand that does not fit its field cannot be
written. The cause codes of a rejected word (spec/60_exceptions.md R241) stand here too, since the decoder answers with
them. -/

namespace Sys2Proof

/-- The seventeen rows of R83. Sixteen are commands of the command port; `tick` comes on the tick port only. -/
inductive Instr where
  /-- NOP, format Z (R217). -/
  | nop
  /-- SET_FREQ, format U24: a frequency in Hz (R101). -/
  | setFreq (v : BitVec 24)
  /-- SET_WAVE, format U3: a waveform selector (R102). -/
  | setWave (v : BitVec 3)
  /-- SET_ATTACK, format U16: a time in ms (R131). -/
  | setAttack (v : BitVec 16)
  /-- SET_DECAY, format U16: a time in ms (R132). -/
  | setDecay (v : BitVec 16)
  /-- SET_SUSTAIN, format U10: a level in permille (R133). -/
  | setSustain (v : BitVec 10)
  /-- SET_RELEASE, format U16: a time in ms (R134). -/
  | setRelease (v : BitVec 16)
  /-- SET_GAIN, format U8: a Q1.7 gain (R176). -/
  | setGain (v : BitVec 8)
  /-- SET_THRESH, format TH: a mode bit and a 15-bit threshold (R178). -/
  | setThresh (sym : BitVec 1) (v : BitVec 15)
  /-- SET_LPSHIFT, format U4: the smoothing shift (R173). -/
  | setLpShift (v : BitVec 4)
  /-- SET_PWM_MAX, format U16: the top of the duty range (R201). -/
  | setPwmMax (v : BitVec 16)
  /-- SET_PWM_CENTER, format U16: the duty of sample 0 (R202). -/
  | setPwmCenter (v : BitVec 16)
  /-- NOTE_ON, format F1: `fr` = 1 also resets the filter (R135). -/
  | noteOn (fr : BitVec 1)
  /-- NOTE_OFF, format Z (R136). -/
  | noteOff
  /-- FILTER_RESET, format Z (R172). -/
  | filterReset
  /-- READ, format U5: a register address (R218). -/
  | read (a : BitVec 5)
  /-- TICK, format T: a pulse of the tick port (R220). -/
  | tick
  deriving DecidableEq, Repr

/-- The causes of a rejected command word (R241), codes 1 to 4 in this order. -/
inductive CmdError where
  /-- Code 1: `OP` is not assigned (R85). -/
  | illegalOp
  /-- Code 2: `OP` = 0x80 on the command port (R86). -/
  | wrongPort
  /-- Code 3: a reserved bit of the command's format is 1 (R84). -/
  | reservedBits
  /-- Code 4: an operand outside its legal range (R101, R102, R133, R218). -/
  | range
  deriving DecidableEq, Repr

end Sys2Proof
end

