-- ==== Sys2Proof/WellFormed.lean ====
section
/-! DEFINITION. The static check of an instruction: the "range check" column of spec/30_encoding.md R83. The operands'
widths are in their types, so this column is all that is left to check. An instruction that fails it is a legal
spelling that the decoder still gives; its meaning records RANGE (DESIGN CHOICE, log 14). -/

namespace Sys2Proof

/-- R83, "range check": SET_FREQ V ≠ 0, SET_WAVE V ≤ 4, SET_SUSTAIN V ≤ 1000, READ V ≤ 0x1A, and no check of any
other row. -/
def Instr.wellFormed : Instr → Bool
  | .setFreq v => decide (v ≠ 0#24)
  | .setWave v => decide (v.toNat ≤ 4)
  | .setSustain v => decide (v.toNat ≤ 1000)
  | .read a => decide (a.toNat ≤ 0x1A)
  | .nop | .setAttack _ | .setDecay _ | .setRelease _ | .setGain _ | .setThresh _ _ | .setLpShift _ | .setPwmMax _
  | .setPwmCenter _ | .noteOn _ | .noteOff | .filterReset | .tick => true

/-- An instruction whose operands pass the range check of their row. -/
abbrev Instr.WellFormed (i : Instr) : Prop := i.wellFormed = true

end Sys2Proof
end

