-- ==== Sys2Proof/Decode.lean ====
section
/-! DEFINITION. Decoding and encoding (spec/30_encoding.md): the opcode map R83, the formats R82, the acceptance checks
of spec/44_host_and_tick.md R216 in their order, and the byte order of spec/20_memory.md R63. The decoder is total: a
word is an instruction or is rejected by the name of its cause (R88), and bytes that are not one whole word are no
transaction of the command port (R64). -/

namespace Sys2Proof

/-- The rows of R83 that the command port accepts. -/
inductive Opcode where
  | nop | setFreq | setWave | setAttack | setDecay | setSustain | setRelease | setGain | setThresh | setLpShift
  | setPwmMax | setPwmCenter | noteOn | noteOff | filterReset | read
  deriving DecidableEq, Repr

/-- R83, column OP. -/
def Opcode.code : Opcode → BitVec 8
  | .nop => 0x00#8
  | .setFreq => 0x01#8
  | .setWave => 0x02#8
  | .setAttack => 0x03#8
  | .setDecay => 0x04#8
  | .setSustain => 0x05#8
  | .setRelease => 0x06#8
  | .setGain => 0x07#8
  | .setThresh => 0x08#8
  | .setLpShift => 0x09#8
  | .setPwmMax => 0x0A#8
  | .setPwmCenter => 0x0B#8
  | .noteOn => 0x10#8
  | .noteOff => 0x11#8
  | .filterReset => 0x12#8
  | .read => 0x20#8

/-- R83, column "match". -/
def Opcode.matchWord : Opcode → Word
  | .nop => 0x00000000#32
  | .setFreq => 0x01000000#32
  | .setWave => 0x02000000#32
  | .setAttack => 0x03000000#32
  | .setDecay => 0x04000000#32
  | .setSustain => 0x05000000#32
  | .setRelease => 0x06000000#32
  | .setGain => 0x07000000#32
  | .setThresh => 0x08000000#32
  | .setLpShift => 0x09000000#32
  | .setPwmMax => 0x0A000000#32
  | .setPwmCenter => 0x0B000000#32
  | .noteOn => 0x10000000#32
  | .noteOff => 0x11000000#32
  | .filterReset => 0x12000000#32
  | .read => 0x20000000#32

/-- R83, column "mask": the bits outside it are the operand field, every other bit of ARG is reserved (R82). -/
def Opcode.mask : Opcode → Word
  | .nop => 0xFFFFFFFF#32
  | .setFreq => 0xFF000000#32
  | .setWave => 0xFFFFFFF8#32
  | .setAttack => 0xFFFF0000#32
  | .setDecay => 0xFFFF0000#32
  | .setSustain => 0xFFFFFC00#32
  | .setRelease => 0xFFFF0000#32
  | .setGain => 0xFFFFFF00#32
  | .setThresh => 0xFFFF0000#32
  | .setLpShift => 0xFFFFFFF0#32
  | .setPwmMax => 0xFFFF0000#32
  | .setPwmCenter => 0xFFFF0000#32
  | .noteOn => 0xFFFFFFFE#32
  | .noteOff => 0xFFFFFFFF#32
  | .filterReset => 0xFFFFFFFF#32
  | .read => 0xFFFFFFE0#32

/-- Every row of the command port. -/
def Opcode.all : List Opcode :=
  [.nop, .setFreq, .setWave, .setAttack, .setDecay, .setSustain, .setRelease, .setGain, .setThresh, .setLpShift,
    .setPwmMax, .setPwmCenter, .noteOn, .noteOff, .filterReset, .read]

/-- The row of R83 whose `OP` is `c`, if one of the command port has it. -/
def Opcode.ofCode? (c : BitVec 8) : Option Opcode := Opcode.all.find? (fun o => o.code == c)

/-- R80: `OP`, bits 31:24 of a word. -/
def opField (w : Word) : BitVec 8 := w.extractLsb' 24 8

/-- R82: an operand field `ARG[len-1:0]` of a word, unsigned. -/
def argField (len : Nat) (w : Word) : BitVec len := w.extractLsb' 0 len

/-- R82, format TH: `SYM` = ARG[15]. -/
def symField (w : Word) : BitVec 1 := w.extractLsb' 15 1

/-- The instruction that a legal spelling of row `o` stands for: its operand read by the row's format (R82, R83). -/
def Opcode.operands (o : Opcode) (w : Word) : Instr :=
  match o with
  | .nop => .nop
  | .setFreq => .setFreq (argField 24 w)
  | .setWave => .setWave (argField 3 w)
  | .setAttack => .setAttack (argField 16 w)
  | .setDecay => .setDecay (argField 16 w)
  | .setSustain => .setSustain (argField 10 w)
  | .setRelease => .setRelease (argField 16 w)
  | .setGain => .setGain (argField 8 w)
  | .setThresh => .setThresh (symField w) (argField 15 w)
  | .setLpShift => .setLpShift (argField 4 w)
  | .setPwmMax => .setPwmMax (argField 16 w)
  | .setPwmCenter => .setPwmCenter (argField 16 w)
  | .noteOn => .noteOn (argField 1 w)
  | .noteOff => .noteOff
  | .filterReset => .filterReset
  | .read => .read (argField 5 w)

/-- What the decoder answers. -/
inductive Decoded where
  /-- A legal spelling of an instruction; its range check comes in its meaning. -/
  | instr (i : Instr)
  /-- A word `w` that the command port rejects, with the cause (R216). -/
  | rejected (c : CmdError) (w : Word)
  /-- Bytes that are not one whole word: no transaction of the command port (R64). -/
  | notOneWord
  deriving DecidableEq, Repr

/-- R81, R86: the `OP` kept for TICK, never legal on the command port. -/
def tickOp : BitVec 8 := 0x80#8

/-- R81: the word that stands for a TICK in a trace that lists commands and ticks in one stream. -/
def tickWord : Word := 0x80000000#32

/-- `Accept(w)` of R216, its three checks in their order: the row of the word, or the cause of the first check that
fails. -/
def accept (w : Word) : Except CmdError Opcode :=
  if opField w = tickOp then .error .wrongPort
  else
    match Opcode.ofCode? (opField w) with
    | none => .error .illegalOp
    | some o => if w &&& o.mask = o.matchWord then .ok o else .error .reservedBits

/-- The decoder of the command port, total on all words (R88). -/
def decodeWord (w : Word) : Decoded :=
  match accept w with
  | .ok o => .instr (o.operands w)
  | .error c => .rejected c w

/-- R63: the four bytes of a word on a host bus, the byte of bits 7:0 first. -/
def bytesOfWord (w : Word) : List Byte :=
  [w.extractLsb' 0 8, w.extractLsb' 8 8, w.extractLsb' 16 8, w.extractLsb' 24 8]

/-- R63: the word that four bytes of a host bus carry; any other number of bytes is no word (R64). -/
def wordOfBytes : List Byte → Option Word
  | [b0, b1, b2, b3] => some (b3 ++ b2 ++ b1 ++ b0)
  | _ => none

/-- The decoder of one transaction of the command port, total on any bytes. -/
def decodeBytes (bs : List Byte) : Decoded :=
  match wordOfBytes bs with
  | some w => decodeWord w
  | none => .notOneWord

/-- The decoder of a mixed trace (R81), where the word 0x80000000 is a TICK of the tick port and every other word is
presented on the command port (DEDUCED, log 11). -/
def decodeTrace (bs : List Byte) : Decoded :=
  match wordOfBytes bs with
  | some w => if w = tickWord then .instr .tick else decodeWord w
  | none => .notOneWord

/-- The word of an instruction: `OP` from R83 and the operand in its format's field, every reserved bit 0 (R90). The
word of `tick` is its word in a mixed trace (R81). -/
def encode : Instr → Word
  | .nop => 0x00#8 ++ 0#24
  | .setFreq v => 0x01#8 ++ v
  | .setWave v => 0x02#8 ++ 0#21 ++ v
  | .setAttack v => 0x03#8 ++ 0#8 ++ v
  | .setDecay v => 0x04#8 ++ 0#8 ++ v
  | .setSustain v => 0x05#8 ++ 0#14 ++ v
  | .setRelease v => 0x06#8 ++ 0#8 ++ v
  | .setGain v => 0x07#8 ++ 0#16 ++ v
  | .setThresh sym v => 0x08#8 ++ 0#8 ++ sym ++ v
  | .setLpShift v => 0x09#8 ++ 0#20 ++ v
  | .setPwmMax v => 0x0A#8 ++ 0#8 ++ v
  | .setPwmCenter v => 0x0B#8 ++ 0#8 ++ v
  | .noteOn fr => 0x10#8 ++ 0#23 ++ fr
  | .noteOff => 0x11#8 ++ 0#24
  | .filterReset => 0x12#8 ++ 0#24
  | .read a => 0x20#8 ++ 0#19 ++ a
  | .tick => tickWord

/-- The bytes of an instruction on a host bus, or of a trace line. -/
def encodeBytes (i : Instr) : List Byte := bytesOfWord (encode i)

/-- The first `n` bytes of the number `w`, least significant first (R63). -/
def bytesOfNat : Nat → Nat → List Byte
  | 0, _ => []
  | n + 1, w => BitVec.ofNat 8 w :: bytesOfNat n (w / 256)

/-- The bytes of an instruction of which `nbits` bits are given, every further bit up to 32 being 0. -/
def tableBytes (nbits w : Nat) : List Byte := bytesOfNat (max 4 ((nbits + 7) / 8)) (w % 2 ^ nbits)

/-- The instruction that the decoder reads from a row's word: a line of a mixed trace, so that the word of TICK is the
TICK of the tick port (R81). -/
def decodeTableWord (nbits w : Nat) : Option Instr :=
  match decodeTrace (tableBytes nbits w) with
  | .instr i => some i
  | .rejected _ _ => none
  | .notOneWord => none

end Sys2Proof
end

