-- ==== Sys2Proof/Machine/State.lean ====
section
/-! DEFINITION. The state of MMS-ASC (spec/10_state.md): the registers of R21 to R47, one field each with the stated
width (R20), and beside them what a model of a block without a program needs: the block's configuration, the trace of
inputs that the host, the sample clock and the platform present, and what a run shows (spec/44 R226). The state after
reset is the table of spec/70_reset_and_hazards.md R271. -/

namespace Sys2Proof.Machine

open Sys2Proof

/-- Why the machine stops with a fault. -/
inductive Fault where
  /-- Raised by `execTick` when WAVE_SEL holds 5, 6 or 7: R106 says that a model that meets one faults rather than
  pick a value. No state reachable from reset has it (R48). Safe. -/
  | illegalWaveSel
  deriving DecidableEq, Repr

/-- Why the machine gives a step no meaning. -/
inductive Refusal where
  /-- Raised by `exec` for an instruction that has no meaning yet; no arm of this model does. Safe. -/
  | notModelled (mnemonic : String)
  /-- Raised by `step` for a state that breaks R48, and by `execTick` for an ENV_STATE of 5 to 7: such a state is
  unreachable, and a model refuses it (R48, spec/93 I20). Safe. -/
  | unreachableState
  /-- Raised by `step` when `SR` is outside R7's range (spec/93 I8). Safe. -/
  | sampleRateOutOfRange
  /-- Raised by `step` when the host presents bytes that are not one whole word (R64). Safe. -/
  | notOneWord
  deriving DecidableEq, Repr

/-- The registers of MMS-ASC, R21 to R45 and R47 in the order of the read map R61, and the two stored fields of STATUS
(R46), whose ENV_STATE field is a view of `envState` (DESIGN CHOICE, log 13). -/
structure Regs where
  /-- PHASE_ACC, R21. -/
  phaseAcc : BitVec 32
  /-- PHASE_INC, R22. -/
  phaseInc : BitVec 32
  /-- FREQ_HZ, R23. -/
  freqHz : BitVec 24
  /-- WAVE_SEL, R24. -/
  waveSel : BitVec 3
  /-- NOISE_LFSR, R25. -/
  noiseLfsr : BitVec 16
  /-- ENV_STATE, R26. -/
  envState : BitVec 3
  /-- ENV_AMP, R27. -/
  envAmp : BitVec 10
  /-- ENV_ELAPSED, R28. -/
  envElapsed : BitVec 32
  /-- ENV_REL_START, R29. -/
  envRelStart : BitVec 10
  /-- ATTACK_MS, R30. -/
  attackMs : BitVec 16
  /-- DECAY_MS, R31. -/
  decayMs : BitVec 16
  /-- SUSTAIN_LVL, R32. -/
  sustainLvl : BitVec 10
  /-- RELEASE_MS, R33. -/
  releaseMs : BitVec 16
  /-- ENV_A_TICKS, R34. -/
  envATicks : BitVec 32
  /-- ENV_D_TICKS, R35. -/
  envDTicks : BitVec 32
  /-- ENV_S_LVL, R36. -/
  envSLvl : BitVec 10
  /-- ENV_R_TICKS, R37. -/
  envRTicks : BitVec 32
  /-- GAIN, R38. -/
  gain : BitVec 8
  /-- SC_CTRL, R39: SYM in bit 15, THRESH in bits 14:0. -/
  scCtrl : BitVec 16
  /-- LP_SHIFT, R40. -/
  lpShift : BitVec 4
  /-- LP_PREV, R41, signed. -/
  lpPrev : BitVec 16
  /-- PWM_MAX, R42. -/
  pwmMax : BitVec 16
  /-- PWM_CENTER, R43. -/
  pwmCenter : BitVec 16
  /-- PWM_DUTY, R44. -/
  pwmDuty : BitVec 16
  /-- SAMPLE_OUT, R45, signed. -/
  sampleOut : BitVec 16
  /-- STATUS.ERR, R46. -/
  err : BitVec 1
  /-- STATUS.ERR_CODE, R46. -/
  errCode : BitVec 3
  /-- ERR_WORD, R47. -/
  errWord : BitVec 32
  deriving DecidableEq, Repr

/-- One input of the block, landing between two steps (R6, R66, R270). -/
inductive Event where
  /-- A transaction of the command port, as the bytes a host bus carries (R63). -/
  | command (bytes : List Byte)
  /-- A pulse of the sample clock on the tick port (R221). -/
  | tickPulse
  /-- A pulse and a transaction in the same instant; the TICK is performed first (R66, R245). -/
  | tickAndCommand (bytes : List Byte)
  /-- The platform's reset input (R270). -/
  | reset
  deriving DecidableEq, Repr

/-- One thing that a run shows to the outside (R226). -/
inductive Output where
  /-- `emit PWM(d)`: the duty value of a TICK on the duty output (R206). -/
  | pwm (duty : BitVec 16)
  /-- A word on the read-data lines: the value of a READ (R218), or 0 for a rejected word with OP 0x20 (R216). -/
  | readData (v : Word)
  deriving DecidableEq, Repr

/-- The machine: the block's registers, and the model's own fields beside them. -/
structure State where
  /-- The registers (R20). -/
  regs : Regs
  /-- The configuration the block was built with; no step writes it (R8, DESIGN CHOICE, log 1). -/
  config : Config
  /-- The inputs still to come, in the one total order of R66 (DESIGN CHOICE, log 2). -/
  pending : List Event
  /-- What the run has shown so far, oldest first (R226, DESIGN CHOICE, log 4). -/
  outputs : List Output
  deriving DecidableEq, Repr

/-- R271: every register after reset. -/
def Regs.reset : Regs where
  phaseAcc := 0
  phaseInc := 0
  freqHz := 0
  waveSel := 0
  noiseLfsr := Config.lfsrSeed
  envState := 0
  envAmp := 0
  envElapsed := 0
  envRelStart := 0
  attackMs := 10
  decayMs := 50
  sustainLvl := 700
  releaseMs := 200
  envATicks := 0
  envDTicks := 0
  envSLvl := 0
  envRTicks := 0
  gain := 128
  scCtrl := 0x6000#16
  lpShift := 1
  lpPrev := 0
  pwmMax := 1023
  pwmCenter := 512
  pwmDuty := 512
  sampleOut := 0
  err := 0
  errCode := 0
  errWord := 0

/-- The machine right after reset: the registers of R271, the default `SR` of R7, no input presented yet and nothing
shown yet (DESIGN CHOICE for the two lists, log 2 and log 4). -/
def State.reset : State where
  regs := Regs.reset
  config := Config.default
  pending := []
  outputs := []

/-- The state with its registers replaced. -/
def State.withRegs (s : State) (r : Regs) : State := { s with regs := r }

/-- The state with its trace of inputs replaced. -/
def State.withPending (s : State) (p : List Event) : State := { s with pending := p }

/-- The state after it has shown `o` to the outside. -/
def State.emit (s : State) (o : Output) : State := { s with outputs := s.outputs ++ [o] }

/-- What a meaning answers. -/
abbrev Result := Host.Outcome State Fault Refusal

end Sys2Proof.Machine
end

