-- ==== Sys2Proof/Machine/Flags.lean ====
section
/-! DEFINITION. The status fields of MMS-ASC. The block has no condition codes; its only flag is STATUS.ERR, with the
cause code ERR_CODE and ERR_WORD beside it (spec/10_state.md R46, R47, R51). No saturation, clamp or wrap sets it
(spec/60_exceptions.md R254). -/

namespace Sys2Proof.Machine

open Sys2Proof

/-- R241: the code of a cause, as ERR_CODE holds it. -/
def errorCode : CmdError → BitVec 3
  | .illegalOp => 1#3
  | .wrongPort => 2#3
  | .reservedBits => 3#3
  | .range => 4#3

/-- R242: the registers after a command word `w` is rejected for the cause `c`. Only the first rejection since reset is
recorded: while ERR is already 1 the code and the word stay as they are. No other register changes. -/
def recordError (c : CmdError) (w : Word) (r : Regs) : Regs :=
  { r with
    err := 1#1
    errCode := if r.err = 0#1 then errorCode c else r.errCode
    errWord := if r.err = 0#1 then w else r.errWord }

/-- R46, R219: the word STATUS reads as, with ENV_STATE in bits 2:0, ERR in bit 4, ERR_CODE in bits 10:8 and every
other bit 0. -/
def statusWord (r : Regs) : Word := 0#21 ++ r.errCode ++ 0#3 ++ r.err ++ 0#1 ++ r.envState

end Sys2Proof.Machine
end

