-- ==== Sys2Proof/Machine/Operands.lean ====
section
/-! DEFINITION. The operand checks of the commands: each is the `raise CmdError(RANGE)` condition of one command's
pseudocode, negated. They come after the acceptance of R216 (spec/44_host_and_tick.md). A command that is not named
here takes every value its field can hold (spec/60_exceptions.md R243). The layouts of the fields are in
Sys2Proof/Decode.lean (spec/30_encoding.md R82). -/

namespace Sys2Proof.Machine

open Sys2Proof

/-- R101: SET_FREQ takes every frequency but 0. -/
abbrev freqInRange (v : BitVec 24) : Prop := v ≠ 0#24

/-- R102: SET_WAVE takes the five waveforms 0 to 4. -/
abbrev waveInRange (v : BitVec 3) : Prop := v.toNat ≤ 4

/-- R133: SET_SUSTAIN takes 0 to 1000 permille. -/
abbrev sustainInRange (v : BitVec 10) : Prop := v.toNat ≤ 1000

/-- R218: READ takes the mapped addresses 0x00 to 0x1A. -/
abbrev addressInRange (a : BitVec 5) : Prop := a.toNat ≤ 0x1A

/-- R39: the field THRESH of SC_CTRL. -/
def threshOf (scCtrl : BitVec 16) : BitVec 15 := scCtrl.extractLsb' 0 15

/-- R39: the field SYM of SC_CTRL. -/
def symOf (scCtrl : BitVec 16) : BitVec 1 := scCtrl.extractLsb' 15 1

/-- R178: SC_CTRL written from its two fields at once. -/
def scCtrlOf (sym : BitVec 1) (v : BitVec 15) : BitVec 16 := sym ++ v

end Sys2Proof.Machine
end

