-- ==== Sys2Proof/Machine/Ops.lean ====
section
/-! DEFINITION. The operations that the meanings share: the arithmetic of spec/00_scope.md R11, reading a register by
address (spec/44_host_and_tick.md R219), the rejection of a command (spec/60_exceptions.md R242), the reset input
(spec/70_reset_and_hazards.md R270) and the well-formedness of a state (spec/10_state.md R48).

MMS-ASC takes no trap (R240, R246): what stands in the place of taking an exception is `rejectCommand`, the one
operation that records a command error. There is no return from it (R247): the next step runs as usual. -/

namespace Sys2Proof.Machine

open Sys2Proof

/-! ### Arithmetic on exact integers (R10, R11) -/

/-- R11, `fdiv(a, b)` for b > 0: the largest integer q with q * b ≤ a. Lean's `/` on `Int` rounds so for a positive
divisor. -/
def fdiv (a b : Int) : Int := a / b

/-- R11, `tdiv(a, b)` for b > 0: division truncated toward zero. -/
def tdiv (a b : Int) : Int := a.tdiv b

/-- R11, `a >> s`: the arithmetic shift right, which rounds toward minus infinity. -/
def asr (a : Int) (s : Nat) : Int := fdiv a (2 ^ s)

/-- R11, `clamp(v, lo, hi)` = min(max(v, lo), hi). -/
def clamp (v lo hi : Int) : Int := min (max v lo) hi

/-- R11, `sat16`: clamped to the sample range of R7. -/
def sat16 (v : Int) : Int := clamp v Config.satMin Config.satMax

/-- R11, `u16_to_s16(u)`. -/
def u16ToS16 (u : Nat) : Int := if 32768 ≤ u then (u : Int) - 65536 else u

/-- R11, `sext_32` of a signed 16-bit register. -/
def sext32 (v : BitVec 16) : Word := v.signExtend 32

/-- R11, `zext_32` of an unsigned register. -/
def zext32 {n : Nat} (v : BitVec n) : Word := v.setWidth 32

/-! ### The register read space (R60, R61) -/

/-- R61: the values of the mapped addresses 0x00 to 0x1A, in address order (R219 for the four special cases). -/
def readMap (r : Regs) : List Word :=
  [ statusWord r, r.phaseAcc, r.phaseInc, zext32 r.freqHz, zext32 r.waveSel, zext32 r.noiseLfsr, zext32 r.envState,
    zext32 r.envAmp, r.envElapsed, zext32 r.envRelStart, zext32 r.attackMs, zext32 r.decayMs, zext32 r.sustainLvl,
    zext32 r.releaseMs, r.envATicks, r.envDTicks, zext32 r.envSLvl, r.envRTicks, zext32 r.gain, zext32 r.scCtrl,
    zext32 r.lpShift, sext32 r.lpPrev, zext32 r.pwmMax, zext32 r.pwmCenter, zext32 r.pwmDuty, sext32 r.sampleOut,
    r.errWord ]

/-- R219, `ReadValue(a)`; an unmapped address (0x1B to 0x1F) has none. -/
def readValue (a : BitVec 5) (r : Regs) : Option Word := (readMap r)[a.toNat]?

/-! ### Rejecting a command (R242) -/

/-- `raise CmdError(c)` with the command word `w` (R242): the error record is filled if it is empty, and the command
ends with no other effect. A rejected word with OP 0x20, a READ, returns 0 on the read-data lines (R216). -/
def rejectCommand (c : CmdError) (w : Word) (s : State) : State :=
  let t := s.withRegs (recordError c w s.regs)
  if opField w = Opcode.read.code then t.emit (.readData 0#32) else t

/-! ### Reset (R270) -/

/-- R270: the reset input sets every register to its value of R271 in one step, whatever the state before. The
configuration, the inputs still to come and what was shown are not the block's registers and stay (DESIGN CHOICE, log 8). -/
def resetRegs (s : State) : State := s.withRegs Regs.reset

/-! ### Well-formed states (R48) -/

/-- R48: what holds of the registers in every state reachable from reset. STATUS.ENV_STATE = ENV_STATE holds of every
state, since STATUS is computed from `envState`. -/
abbrev Regs.Wf (r : Regs) : Prop :=
  r.envAmp.toNat ≤ 1000 ∧ r.envRelStart.toNat ≤ 1000 ∧ r.envSLvl.toNat ≤ 1000 ∧ r.sustainLvl.toNat ≤ 1000 ∧
    r.waveSel.toNat ≤ 4 ∧ r.envState.toNat ≤ 4 ∧ r.noiseLfsr ≠ 0#16 ∧
    (r.err = 0#1 → r.errCode = 0#3 ∧ r.errWord = 0#32)

end Sys2Proof.Machine
end

