-- ==== Sys2Proof/Machine/Envelope.lean ====
section
/-! DEFINITION. The ADSR envelope (spec/41_envelope.md): the profile commands, NOTE_ON, NOTE_OFF, and the per-tick
`EnvProcess`. The states are IDLE 0, ATTACK 1, DECAY 2, SUSTAIN 3, RELEASE 4 (spec/10_state.md R26). -/

namespace Sys2Proof.Machine

open Sys2Proof

/-! ### State codes (R26) -/

/-- ENV_STATE IDLE. -/
abbrev envIdle : BitVec 3 := 0#3
/-- ENV_STATE ATTACK. -/
abbrev envAttack : BitVec 3 := 1#3
/-- ENV_STATE DECAY. -/
abbrev envDecay : BitVec 3 := 2#3
/-- ENV_STATE SUSTAIN. -/
abbrev envSustain : BitVec 3 := 3#3
/-- ENV_STATE RELEASE. -/
abbrev envRelease : BitVec 3 := 4#3

/-! ### Profile commands -/

/-- R130, `MsToTicks(ms)` at the sample rate `sr`, rounded down. -/
def msToTicks (sr ms : Nat) : Nat := ms * sr / 1000

/-- SET_ATTACK (R131). -/
def execSetAttack (v : BitVec 16) (s : State) : Result := .next (s.withRegs { s.regs with attackMs := v })

/-- SET_DECAY (R132). -/
def execSetDecay (v : BitVec 16) (s : State) : Result := .next (s.withRegs { s.regs with decayMs := v })

/-- SET_SUSTAIN (R133). -/
def execSetSustain (v : BitVec 10) (s : State) : Result :=
  if sustainInRange v then .next (s.withRegs { s.regs with sustainLvl := v })
  else .next (rejectCommand .range (encode (.setSustain v)) s)

/-- SET_RELEASE (R134). -/
def execSetRelease (v : BitVec 16) (s : State) : Result := .next (s.withRegs { s.regs with releaseMs := v })

/-! ### Note events -/

/-- R130: a profile duration as the 32-bit ENV_*_TICKS registers hold it. -/
def latchTicks (c : Config) (ms : BitVec 16) : BitVec 32 := BitVec.ofNat 32 (msToTicks c.sampleRate ms.toNat)

/-- NOTE_ON (R135), from any state: the profile is latched and the envelope enters ATTACK from amplitude 0; with FR = 1
LP_PREV is cleared in the same step. -/
def execNoteOn (fr : BitVec 1) (s : State) : Result :=
  .next (s.withRegs { s.regs with
    envATicks := latchTicks s.config s.regs.attackMs
    envDTicks := latchTicks s.config s.regs.decayMs
    envSLvl := s.regs.sustainLvl
    envRTicks := latchTicks s.config s.regs.releaseMs
    envState := envAttack
    envElapsed := 0#32
    envAmp := 0#10
    lpPrev := if fr = 1#1 then 0#16 else s.regs.lpPrev })

/-- R136: a note sounds in ATTACK, DECAY and SUSTAIN. -/
abbrev noteHeld (st : BitVec 3) : Prop := st = envAttack ∨ st = envDecay ∨ st = envSustain

/-- NOTE_OFF (R136): from ATTACK, DECAY or SUSTAIN it enters RELEASE from the amplitude reached; otherwise nothing. -/
def execNoteOff (s : State) : Result :=
  if noteHeld s.regs.envState then
    .next (s.withRegs { s.regs with envRelStart := s.regs.envAmp, envState := envRelease, envElapsed := 0#32 })
  else .next s

/-! ### Per-tick processing -/

/-- What `EnvProcess` writes: the three registers ENV_STATE, ENV_AMP and ENV_ELAPSED. -/
structure EnvStep where
  state : BitVec 3
  amp : BitVec 10
  elapsed : BitVec 32
  deriving DecidableEq, Repr

/-- R137: the elapsed counter after one more tick, which stops at 2^32 − 1. -/
def elapsedNext (e : BitVec 32) : Nat := min (e.toNat + 1) (0xFFFFFFFF)

/-- R138, IDLE. -/
def envTickIdle (e : Nat) : EnvStep := { state := envIdle, amp := 0#10, elapsed := BitVec.ofNat 32 e }

/-- R139, ATTACK: 0 to 1000 over ENV_A_TICKS ticks. -/
def envTickAttack (e : Nat) (r : Regs) : EnvStep :=
  if r.envATicks.toNat ≤ e then { state := envDecay, amp := 1000#10, elapsed := 0#32 }
  else
    { state := envAttack
      amp := BitVec.ofInt 10 (fdiv (1000 * e) r.envATicks.toNat)
      elapsed := BitVec.ofNat 32 e }

/-- R140, DECAY: 1000 to ENV_S_LVL over ENV_D_TICKS ticks. -/
def envTickDecay (e : Nat) (r : Regs) : EnvStep :=
  if r.envDTicks.toNat ≤ e then { state := envSustain, amp := r.envSLvl, elapsed := 0#32 }
  else
    { state := envDecay
      amp := BitVec.ofInt 10 (1000 - fdiv ((1000 - r.envSLvl.toNat) * e) r.envDTicks.toNat)
      elapsed := BitVec.ofNat 32 e }

/-- R141, SUSTAIN. -/
def envTickSustain (e : Nat) (r : Regs) : EnvStep :=
  { state := envSustain, amp := r.envSLvl, elapsed := BitVec.ofNat 32 e }

/-- R142, RELEASE: ENV_REL_START to 0 over ENV_R_TICKS ticks. -/
def envTickRelease (e : Nat) (r : Regs) : EnvStep :=
  if r.envRTicks.toNat ≤ e then { state := envIdle, amp := 0#10, elapsed := 0#32 }
  else
    { state := envRelease
      amp := BitVec.ofInt 10 (r.envRelStart.toNat - fdiv (r.envRelStart.toNat * e) r.envRTicks.toNat)
      elapsed := BitVec.ofNat 32 e }

/-- R137, `EnvProcess()`: the counter first, then the work of the current state. An ENV_STATE of 5 to 7 has none
(R48). -/
def envProcess (r : Regs) : Option EnvStep :=
  let e := elapsedNext r.envElapsed
  match r.envState.toNat with
  | 0 => some (envTickIdle e)
  | 1 => some (envTickAttack e r)
  | 2 => some (envTickDecay e r)
  | 3 => some (envTickSustain e r)
  | 4 => some (envTickRelease e r)
  | _ => none

end Sys2Proof.Machine
end

