-- ==== Sys2Proof/Machine/FilterChain.lean ====
section
/-! DEFINITION. The filter chain (spec/42_filter_chain.md): amplitude scaling, the one-pole low-pass filter, gain with
frequency compensation, soft clipping, and the commands that configure them. -/

namespace Sys2Proof.Machine

open Sys2Proof

/-- R170, `Scale(raw, amp)`. -/
def scale (raw : Int) (amp : Nat) : Int := tdiv (raw * amp) 1000

/-- R171, `LowPass(x)` with shift `k` and last output `prev`: the step toward `x` has the magnitude ceil(|d| / 2^k). -/
def lowPass (k : Nat) (prev x : Int) : Int :=
  let d := x - prev
  if d = 0 then prev else prev + d.sign * fdiv (d.natAbs + 2 ^ k - 1) (2 ^ k)

/-- FILTER_RESET (R172). -/
def execFilterReset (s : State) : Result := .next (s.withRegs { s.regs with lpPrev := 0#16 })

/-- SET_LPSHIFT (R173). -/
def execSetLpShift (v : BitVec 4) (s : State) : Result := .next (s.withRegs { s.regs with lpShift := v })

/-- R174, `CompQ7(f)`: a boost from 1.0 at 0 Hz to 1.5 at the knee and above, in Q1.7. -/
def compQ7 (f : Nat) : Nat := 128 + min f Config.compKneeHz * Config.compBoostQ7 / Config.compKneeHz

/-- R175, the effective gain `ge`, in Q1.7. -/
def effectiveGain (g f : Nat) : Int := asr (g * compQ7 f) 7

/-- R175, `Gain(x, g, f)`. -/
def applyGain (x : Int) (g f : Nat) : Int := sat16 (asr (x * effectiveGain g f) 7)

/-- SET_GAIN (R176). -/
def execSetGain (v : BitVec 8) (s : State) : Result := .next (s.withRegs { s.regs with gain := v })

/-- R177, `SoftClip(x, T, sym)`: one-sided for sym = 0, by magnitude for sym = 1. -/
def softClip (x : Int) (t : Nat) (sym : BitVec 1) : Int :=
  if sym = 0#1 then
    if x ≤ t then x else t + asr (x - t) 1
  else
    if (x.natAbs : Int) ≤ t then x else x.sign * (t + asr (x.natAbs - t) 1)

/-- SET_THRESH (R178): both fields of SC_CTRL in one step. -/
def execSetThresh (sym : BitVec 1) (v : BitVec 15) (s : State) : Result :=
  .next (s.withRegs { s.regs with scCtrl := scCtrlOf sym v })

end Sys2Proof.Machine
end

