-- ==== Sys2Proof/Machine/SineRom.lean ====
section
/-! DEFINITION. The sine ROM of spec/20_memory.md R62: 256 signed 16-bit entries, read-only, with the normative
contents of spec/40_oscillator.md R109. It is the block's second address space; only the SINE waveform reads it. -/

namespace Sys2Proof.Machine

/-- R109, entries 0 to 63. -/
def sineQuarterFirst : List Int :=
  [0, 804, 1608, 2410, 3212, 4011, 4808, 5602, 6393, 7179, 7962, 8739, 9512, 10278, 11039, 11793] ++
  [12539, 13279, 14010, 14732, 15446, 16151, 16846, 17530, 18204, 18868, 19519, 20159, 20787, 21403, 22005, 22594] ++
  [23170, 23731, 24279, 24811, 25329, 25832, 26319, 26790, 27245, 27683, 28105, 28510, 28898, 29268, 29621, 29956] ++
  [30273, 30571, 30852, 31113, 31356, 31580, 31785, 31971, 32137, 32285, 32412, 32521, 32609, 32678, 32728, 32757]

/-- R109, entries 64 to 127. -/
def sineQuarterSecond : List Int :=
  [32767, 32757, 32728, 32678, 32609, 32521, 32412, 32285, 32137, 31971, 31785, 31580, 31356, 31113, 30852, 30571] ++
  [30273, 29956, 29621, 29268, 28898, 28510, 28105, 27683, 27245, 26790, 26319, 25832, 25329, 24811, 24279, 23731] ++
  [23170, 22594, 22005, 21403, 20787, 20159, 19519, 18868, 18204, 17530, 16846, 16151, 15446, 14732, 14010, 13279] ++
  [12539, 11793, 11039, 10278, 9512, 8739, 7962, 7179, 6393, 5602, 4808, 4011, 3212, 2410, 1608, 804]

/-- R109, entries 128 to 191. -/
def sineQuarterThird : List Int :=
  [0, -804, -1608, -2410, -3212, -4011, -4808, -5602, -6393, -7179, -7962, -8739, -9512, -10278, -11039, -11793] ++
  [-12539, -13279, -14010, -14732, -15446, -16151, -16846, -17530, -18204, -18868, -19519, -20159, -20787, -21403, -22005, -22594] ++
  [-23170, -23731, -24279, -24811, -25329, -25832, -26319, -26790, -27245, -27683, -28105, -28510, -28898, -29268, -29621, -29956] ++
  [-30273, -30571, -30852, -31113, -31356, -31580, -31785, -31971, -32137, -32285, -32412, -32521, -32609, -32678, -32728, -32757]

/-- R109, entries 192 to 255. -/
def sineQuarterFourth : List Int :=
  [-32767, -32757, -32728, -32678, -32609, -32521, -32412, -32285, -32137, -31971, -31785, -31580, -31356, -31113, -30852, -30571] ++
  [-30273, -29956, -29621, -29268, -28898, -28510, -28105, -27683, -27245, -26790, -26319, -25832, -25329, -24811, -24279, -23731] ++
  [-23170, -22594, -22005, -21403, -20787, -20159, -19519, -18868, -18204, -17530, -16846, -16151, -15446, -14732, -14010, -13279] ++
  [-12539, -11793, -11039, -10278, -9512, -8739, -7962, -7179, -6393, -5602, -4808, -4011, -3212, -2410, -1608, -804]

/-- R109: the 256 entries in order. -/
def sineTable : List Int := sineQuarterFirst ++ sineQuarterSecond ++ sineQuarterThird ++ sineQuarterFourth

/-- R62: `SineRom(i)`. The table has an entry at every 8-bit index. -/
def sineRom (i : BitVec 8) : Int := sineTable.getD i.toNat 0

end Sys2Proof.Machine
end

