-- ==== Sys2Proof/Machine/Oscillator.lean ====
section
/-! DEFINITION. The oscillator (spec/40_oscillator.md): SET_FREQ, SET_WAVE, the phase increment, the per-tick phase
advance and noise step, and the five waveforms. -/

namespace Sys2Proof.Machine

open Sys2Proof

/-! ### Commands -/

/-- R100, `PhaseInc(f)` at the sample rate `sr`: the frequency times 2^32 over `sr`, rounded down and clamped to 32
bits; 0 for the frequency 0. -/
def phaseInc (sr f : Nat) : Nat := if f = 0 then 0 else min (f * 2 ^ 32 / sr) (2 ^ 32 - 1)

/-- SET_FREQ (R101). -/
def execSetFreq (v : BitVec 24) (s : State) : Result :=
  if freqInRange v then
    .next (s.withRegs { s.regs with freqHz := v, phaseInc := BitVec.ofNat 32 (phaseInc s.config.sampleRate v.toNat) })
  else .next (rejectCommand .range (encode (.setFreq v)) s)

/-- SET_WAVE (R102). -/
def execSetWave (v : BitVec 3) (s : State) : Result :=
  if waveInRange v then .next (s.withRegs { s.regs with waveSel := v })
  else .next (rejectCommand .range (encode (.setWave v)) s)

/-! ### Per-tick steps -/

/-- R103: the phase advance, modulo 2^32. -/
def phaseAdvance (acc inc : BitVec 32) : BitVec 32 := acc + inc

/-- R104: the phase index, PHASE_ACC[31:24]. -/
def phaseIndex (acc : BitVec 32) : BitVec 8 := acc.extractLsb' 24 8

/-- R105: one step of the 16-bit Galois LFSR, right shift and tap mask. -/
def lfsrStep (l : BitVec 16) : BitVec 16 :=
  if l.getLsbD 0 then (l >>> 1) ^^^ Config.lfsrTaps else l >>> 1

/-! ### Waveforms -/

/-- R110. -/
def square (idx : Nat) : Int := if idx < 128 then 32767 else -32768

/-- R111. -/
def saw (idx : Nat) : Int := fdiv (idx * 65535) 255 - 32768

/-- R112. -/
def triangle (idx : Nat) : Int :=
  let v : Int := if idx < 128 then idx else 255 - idx
  fdiv (v * 65535) 127 - 32768

/-- R113: the LFSR state read as a two's-complement sample. -/
def noise (lfsr : BitVec 16) : Int := u16ToS16 lfsr.toNat

/-- R106, `Wave(sel, idx, lfsr)`; a selector of 5 to 7 has no waveform. -/
def wave (sel : BitVec 3) (idx : BitVec 8) (lfsr : BitVec 16) : Option Int :=
  match sel.toNat with
  | 0 => some (sineRom idx)
  | 1 => some (square idx.toNat)
  | 2 => some (saw idx.toNat)
  | 3 => some (triangle idx.toNat)
  | 4 => some (noise lfsr)
  | _ => none

end Sys2Proof.Machine
end

