-- ==== Sys2Proof/Machine/PwmMapper.lean ====
section
/-! DEFINITION. The PWM sample mapper (spec/43_pwm_mapper.md): the mapping of a sample to a duty value and its two
configuration commands. -/

namespace Sys2Proof.Machine

open Sys2Proof

/-- R200, `PwmMap(c, M, C)`. -/
def pwmMap (c : Int) (m center : Nat) : Int := clamp (center + asr (c * m) 16) 0 m

/-- SET_PWM_MAX (R201): PWM_DUTY is not recomputed. -/
def execSetPwmMax (v : BitVec 16) (s : State) : Result := .next (s.withRegs { s.regs with pwmMax := v })

/-- SET_PWM_CENTER (R202): PWM_DUTY is not recomputed. -/
def execSetPwmCenter (v : BitVec 16) (s : State) : Result := .next (s.withRegs { s.regs with pwmCenter := v })

end Sys2Proof.Machine
end

