-- ==== Sys2Proof/Machine/HostTick.lean ====
section
/-! DEFINITION. The instructions with no unit of their own (spec/44_host_and_tick.md): NOP, READ, and TICK, which runs
the whole pipeline once in the order of R220. -/

namespace Sys2Proof.Machine

open Sys2Proof

/-- NOP (R217). -/
def execNop (s : State) : Result := .next s

/-- READ (R218): the value of a mapped address on the read-data lines, and no other effect; an unmapped address is
rejected with RANGE, and the host receives 0 (R216). -/
def execRead (a : BitVec 5) (s : State) : Result :=
  if addressInRange a then .next (s.emit (.readData ((readValue a s.regs).getD 0#32)))
  else .next (rejectCommand .range (encode (.read a)) s)

/-! ### TICK (R220)

The lines of the rule in its order. `EnvProcess` and the chain read no register that a line before them wrote but the
ones passed to them here: the new phase and noise go to the waveform, the new amplitude to the scaling, the new low-pass
output to the gain, and the clipped sample to the mapper. -/

/-- R220, lines 1 to 4: the raw sample, from the phase after its advance (R103, R104) and the noise after its step
(R105). -/
def rawSample (r : Regs) : Option Int :=
  wave r.waveSel (phaseIndex (phaseAdvance r.phaseAcc r.phaseInc)) (lfsrStep r.noiseLfsr)

/-- R220, R179: scale, then low-pass, with the amplitude that `EnvProcess` computed in this tick. -/
def tickLowPass (raw : Int) (amp : BitVec 10) (r : Regs) : Int :=
  lowPass r.lpShift.toNat r.lpPrev.toInt (scale raw amp.toNat)

/-- R220, R179: gain, then soft clip, of the low-pass output. -/
def tickClipped (lp : Int) (r : Regs) : Int :=
  softClip (applyGain lp r.gain.toNat r.freqHz.toNat) (threshOf r.scCtrl).toNat (symOf r.scCtrl)

/-- R220: the registers after a TICK, given its raw sample and what `EnvProcess` writes. -/
def tickRegs (raw : Int) (env : EnvStep) (r : Regs) : Regs :=
  let lp := tickLowPass raw env.amp r
  let clipped := tickClipped lp r
  { r with
    phaseAcc := phaseAdvance r.phaseAcc r.phaseInc
    noiseLfsr := lfsrStep r.noiseLfsr
    envState := env.state
    envAmp := env.amp
    envElapsed := env.elapsed
    lpPrev := BitVec.ofInt 16 lp
    sampleOut := BitVec.ofInt 16 clipped
    pwmDuty := BitVec.ofInt 16 (pwmMap clipped r.pwmMax.toNat r.pwmCenter.toNat) }

/-- TICK (R220): one atomic run of the pipeline, ending with the new duty value on the duty output (R206). A WAVE_SEL of
5 to 7 faults (R106); an ENV_STATE of 5 to 7 is refused (R48). -/
def execTick (s : State) : Result :=
  match rawSample s.regs with
  | none => .fault .illegalWaveSel
  | some raw =>
    match envProcess s.regs with
    | none => .refused .unreachableState
    | some env =>
      let r := tickRegs raw env s.regs
      .next ((s.withRegs r).emit (.pwm r.pwmDuty))

end Sys2Proof.Machine
end

