-- ==== Sys2Proof/Machine/Dispatch.lean ====
section
/-! DEFINITION. One arm per row of the opcode table (spec/30_encoding.md R83), each a direct call of its meaning. -/

namespace Sys2Proof.Machine

open Sys2Proof

def exec (i : Instr) (s : State) : Host.Outcome State Fault Refusal :=
  match i with
  | .nop => Sys2Proof.Machine.execNop s
  | .setFreq v => Sys2Proof.Machine.execSetFreq v s
  | .setWave v => Sys2Proof.Machine.execSetWave v s
  | .setAttack v => Sys2Proof.Machine.execSetAttack v s
  | .setDecay v => Sys2Proof.Machine.execSetDecay v s
  | .setSustain v => Sys2Proof.Machine.execSetSustain v s
  | .setRelease v => Sys2Proof.Machine.execSetRelease v s
  | .setGain v => Sys2Proof.Machine.execSetGain v s
  | .setThresh sym v => Sys2Proof.Machine.execSetThresh sym v s
  | .setLpShift v => Sys2Proof.Machine.execSetLpShift v s
  | .setPwmMax v => Sys2Proof.Machine.execSetPwmMax v s
  | .setPwmCenter v => Sys2Proof.Machine.execSetPwmCenter v s
  | .noteOn fr => Sys2Proof.Machine.execNoteOn fr s
  | .noteOff => Sys2Proof.Machine.execNoteOff s
  | .filterReset => Sys2Proof.Machine.execFilterReset s
  | .read a => Sys2Proof.Machine.execRead a s
  | .tick => Sys2Proof.Machine.execTick s

end Sys2Proof.Machine
end

