-- ==== Sys2Proof/Machine/Port.lean ====
section
/-! DEFINITION. The two ports and the reset input: which input of the trace the next step takes, and what it asks of
the block (spec/44_host_and_tick.md R215, R221; spec/20_memory.md R66; spec/70_reset_and_hazards.md R270). MMS-ASC has no
program counter and fetches nothing (spec/10_state.md R50): a step dispatches on the kind of its input (R223). -/

namespace Sys2Proof.Machine

open Sys2Proof

/-- What the next step does. -/
inductive Action where
  /-- Nothing is presented: the state holds (R252, DEDUCED, log 3). -/
  | idle
  /-- Reset, with the state before it (R270). -/
  | reset (s : State)
  /-- Run an instruction: an accepted command (R215) or a TICK (R221). -/
  | run (i : Instr) (s : State)
  /-- Reject a command word, with its cause (R216, R242). -/
  | reject (c : CmdError) (w : Word) (s : State)
  /-- The host presents bytes that are no whole word (R64). -/
  | refuse
  deriving DecidableEq, Repr

/-- R215: what a transaction of the command port asks for. -/
def commandAction (bs : List Byte) (s : State) : Action :=
  match decodeBytes bs with
  | .instr i => .run i s
  | .rejected c w => .reject c w s
  | .notOneWord => .refuse

/-- The action of the next step: the first input of the trace is taken. Of a pulse and a transaction in the same instant
the TICK is performed first, and the transaction is left for the step after it (R66, R245). -/
def nextAction (s : State) : Action :=
  match s.pending with
  | [] => .idle
  | .reset :: rest => .reset (s.withPending rest)
  | .tickPulse :: rest => .run .tick (s.withPending rest)
  | .tickAndCommand bs :: rest => .run .tick (s.withPending (.command bs :: rest))
  | .command bs :: rest => commandAction bs (s.withPending rest)

/-- The input that a line of a mixed trace stands for (R81, DEDUCED, log 11). -/
def eventOfTrace (bs : List Byte) : Event :=
  if wordOfBytes bs = some tickWord then .tickPulse else .command bs

end Sys2Proof.Machine
end

