-- ==== Sys2Proof/Machine/Step.lean ====
section
/-! DEFINITION. One step of the machine (spec/00_scope.md R13): one command performed to its end, one TICK performed to
its end, or the reset input. -/

namespace Sys2Proof.Machine

open Sys2Proof

/-- One step. A configuration outside R7 is refused (spec/93 I8). Reset does not depend on the state before it (R270);
every other step refuses a state that breaks R48. -/
def step (s : State) : Host.Outcome State Fault Refusal :=
  if s.config.Wf then
    match nextAction s with
    | .reset t => .next (resetRegs t)
    | .idle => if s.regs.Wf then .next s else .refused .unreachableState
    | .run i t => if s.regs.Wf then exec i t else .refused .unreachableState
    | .reject c w t => if s.regs.Wf then .next (rejectCommand c w t) else .refused .unreachableState
    | .refuse => .refused .notOneWord
  else .refused .sampleRateOutOfRange

/-- The state with the instruction whose first `nbits` bits are `w` presented as its very next input: a TICK pulse for
the trace word of TICK (R81), a transaction of the command port for every other word. -/
def State.withFetchWord (s : State) (nbits w : Nat) : State :=
  s.withPending (eventOfTrace (tableBytes nbits w) :: s.pending)

end Sys2Proof.Machine
end

