-- ==== Sys2Proof/Machine/Assembler.lean ====
section
/-! DEFINITION. The spec's assembly language (spec/30_encoding.md R89 to R91): one statement a line, `;` starts a
comment, and a statement becomes the inputs it presents to the block. The instruction words are those of
`Sys2Proof.encode` (R90). What the text leaves open (blanks, and a comma between two operands) is log 16 (DESIGN CHOICE). -/

namespace Sys2Proof.Machine

open Sys2Proof

/-! ### Numbers -/

/-- The value of a digit character, decimal or hexadecimal. -/
def digitValue (c : Char) : Option Nat :=
  let n := c.toNat
  if 48 ≤ n ∧ n ≤ 57 then some (n - 48)
  else if 97 ≤ n ∧ n ≤ 102 then some (n - 87)
  else if 65 ≤ n ∧ n ≤ 70 then some (n - 55)
  else none

/-- A digit string in the base `b`, read on from the value `acc`. -/
def digitsValue (b : Nat) : List Char → Nat → Option Nat
  | [], acc => some acc
  | c :: cs, acc =>
    match digitValue c with
    | some d => if d < b then digitsValue b cs (acc * b + d) else none
    | none => none

/-- R89: a decimal or `0x` hexadecimal unsigned number. -/
def numberOf (t : String) : Option Nat :=
  match t.toList with
  | [] => none
  | '0' :: 'x' :: d :: ds => digitsValue 16 (d :: ds) 0
  | ds => digitsValue 10 ds 0

/-- R89: an operand that fits its field of `n` bits; the assembler refuses one that does not. -/
def fitField (n : Nat) (v : Nat) : Option (BitVec n) := if v < 2 ^ n then some (BitVec.ofNat n v) else none

/-- R89: a number that fits a field of `n` bits. -/
def fieldOf (n : Nat) (t : String) : Option (BitVec n) := (numberOf t).bind (fitField n)

/-! ### Names -/

/-- R89: the operand of `set_wave`, a waveform's name or a number. -/
def waveOf (t : String) : Option (BitVec 3) :=
  if t = "sine" then some 0#3
  else if t = "square" then some 1#3
  else if t = "saw" then some 2#3
  else if t = "triangle" then some 3#3
  else if t = "noise" then some 4#3
  else fieldOf 3 t

/-- R61: the register names of the read space, in address order. -/
def registerNames : List String :=
  [ "STATUS", "PHASE_ACC", "PHASE_INC", "FREQ_HZ", "WAVE_SEL", "NOISE_LFSR", "ENV_STATE", "ENV_AMP", "ENV_ELAPSED",
    "ENV_REL_START", "ATTACK_MS", "DECAY_MS", "SUSTAIN_LVL", "RELEASE_MS", "ENV_A_TICKS", "ENV_D_TICKS", "ENV_S_LVL",
    "ENV_R_TICKS", "GAIN", "SC_CTRL", "LP_SHIFT", "LP_PREV", "PWM_MAX", "PWM_CENTER", "PWM_DUTY", "SAMPLE_OUT",
    "ERR_WORD" ]

/-- R89: the operand of `rd`, a register's name or an address. -/
def addressOf (t : String) : Option (BitVec 5) :=
  match registerNames.findIdx? (· == t) with
  | some k => fitField 5 k
  | none => fieldOf 5 t

/-! ### Statements -/

/-- The transaction that presents a command on the command port (R63, R90). -/
def commandEvent (i : Instr) : Event := .command (encodeBytes i)

/-- R89, R91: one statement, as its words with each comma a word of its own; a pseudo-instruction becomes its expansion
in the order R91 gives. -/
def assembleStatement : List String → Option (List Event)
  | [] => some []
  | ["nop"] => some [commandEvent .nop]
  | ["set_freq", x] => (fieldOf 24 x).map fun v => [commandEvent (.setFreq v)]
  | ["set_wave", x] => (waveOf x).map fun v => [commandEvent (.setWave v)]
  | ["set_attack", x] => (fieldOf 16 x).map fun v => [commandEvent (.setAttack v)]
  | ["set_decay", x] => (fieldOf 16 x).map fun v => [commandEvent (.setDecay v)]
  | ["set_sustain", x] => (fieldOf 10 x).map fun v => [commandEvent (.setSustain v)]
  | ["set_release", x] => (fieldOf 16 x).map fun v => [commandEvent (.setRelease v)]
  | ["set_gain", x] => (fieldOf 8 x).map fun v => [commandEvent (.setGain v)]
  | ["set_thresh", x] => (fieldOf 15 x).map fun v => [commandEvent (.setThresh 0#1 v)]
  | ["set_thresh", x, ",", "sym"] => (fieldOf 15 x).map fun v => [commandEvent (.setThresh 1#1 v)]
  | ["set_lpshift", x] => (fieldOf 4 x).map fun v => [commandEvent (.setLpShift v)]
  | ["set_pwm_max", x] => (fieldOf 16 x).map fun v => [commandEvent (.setPwmMax v)]
  | ["set_pwm_center", x] => (fieldOf 16 x).map fun v => [commandEvent (.setPwmCenter v)]
  | ["note_on"] => some [commandEvent (.noteOn 0#1)]
  | ["note_on", "fr"] => some [commandEvent (.noteOn 1#1)]
  | ["note_off"] => some [commandEvent .noteOff]
  | ["filter_reset"] => some [commandEvent .filterReset]
  | ["rd", x] => (addressOf x).map fun a => [commandEvent (.read a)]
  | ["tick"] => some [.tickPulse]
  | ["tick", x] => (numberOf x).bind fun n => if 1 ≤ n then some (List.replicate n .tickPulse) else none
  | ["set_profile", a, ",", d, ",", s, ",", r] =>
    match fieldOf 16 a, fieldOf 16 d, fieldOf 10 s, fieldOf 16 r with
    | some a, some d, some s, some r =>
      some [commandEvent (.setAttack a), commandEvent (.setDecay d), commandEvent (.setSustain s),
        commandEvent (.setRelease r)]
    | _, _, _, _ => none
  | ["set_pwm", m, ",", c] =>
    match fieldOf 16 m, fieldOf 16 c with
    | some m, some c => some [commandEvent (.setPwmMax m), commandEvent (.setPwmCenter c)]
    | _, _ => none
  | ["play", f, ",", w] =>
    match fieldOf 24 f, waveOf w with
    | some f, some w => some [commandEvent (.setFreq f), commandEvent (.setWave w), commandEvent (.noteOn 1#1)]
    | _, _ => none
  | _ => none

/-! ### Text -/

/-- The word read so far, put before the words after it, if it is not empty. -/
def endWord (w : List Char) (rest : List String) : List String :=
  if w.isEmpty then rest else String.ofList w.reverse :: rest

/-- The words of one line up to a comment; `w` holds the word being read, its last character first. -/
def wordsOf : List Char → List Char → List String
  | [], w => endWord w []
  | c :: cs, w =>
    if c = ';' then endWord w []
    else if c = ' ' ∨ c = '\t' ∨ c = '\r' then endWord w (wordsOf cs [])
    else if c = ',' then endWord w ("," :: wordsOf cs [])
    else wordsOf cs (c :: w)

/-- The lines of a text; `l` holds the line being read, its last character first. -/
def linesOf : List Char → List Char → List (List Char)
  | [], l => [l.reverse]
  | c :: cs, l => if c = '\n' then l.reverse :: linesOf cs [] else linesOf cs (c :: l)

/-- The inputs of a list of lines, or nothing if a line is no statement. -/
def assembleLines : List (List Char) → Option (List Event)
  | [] => some []
  | l :: ls =>
    match assembleStatement (wordsOf l []), assembleLines ls with
    | some e, some es => some (e ++ es)
    | _, _ => none

/-- R89: the inputs that a program presents to the block, in order. -/
def assemble (program : String) : Option (List Event) := assembleLines (linesOf program.toList [])

end Sys2Proof.Machine
end

