-- ==== Sys2Proof/Safety.lean ====
section
/-! DEFINITION. What the statements about runs are said in: the invariant of the reachable states (spec/10_state.md R48
with spec/00_scope.md R7), traces whose transactions are whole words (spec/20_memory.md R63), and runs of the machine. -/

namespace Sys2Proof.Machine

open Sys2Proof

/-- The invariant: `SR` is in R7's range and the registers are as R48 says. -/
abbrev State.Inv (s : State) : Prop := s.config.Wf ∧ s.regs.Wf

/-- R63: the input is no transaction, or a transaction of one whole word (four bytes). -/
def Event.wholeWord : Event → Bool
  | .command bs => decide (bs.length = 4)
  | .tickAndCommand bs => decide (bs.length = 4)
  | .tickPulse => true
  | .reset => true

/-- Every transaction of the trace is one whole word. -/
abbrev State.InputsWhole (s : State) : Prop := ∀ e ∈ s.pending, e.wholeWord = true

/-- The transaction that presents the word `w` (R63). -/
def Event.word (w : Word) : Event := .command (bytesOfWord w)

/-- The input presents the command word `w`, alone or together with a pulse. -/
def Event.presents (w : Word) : Event → Bool
  | .command bs => decide (bs = bytesOfWord w)
  | .tickAndCommand bs => decide (bs = bytesOfWord w)
  | .tickPulse => false
  | .reset => false

/-- The state after `n` steps of the machine, if none of them stops; otherwise why the first one stopped. -/
def runSteps : Nat → State → Result
  | 0, s => .next s
  | n + 1, s =>
    match step s with
    | .next t => runSteps n t
    | .fault r => .fault r
    | .refused r => .refused r

/-- A state with `n` TICK pulses to come, and nothing else. -/
def State.withTicks (s : State) (n : Nat) : State := s.withPending (List.replicate n .tickPulse)

/-- A safe run of `n` steps: no step faults and none is refused. -/
def RunsSafely (n : Nat) (s : State) : Prop := ∃ t, runSteps n s = .next t

end Sys2Proof.Machine
end

