-- ==== Sys2Proof/Certificates/Slice0/Obligations.lean ====
section
/-! DEFINITION. The statements for the provers, each the Lean of a numbered rule of spec/ or of what follows from the
rules. A statement names the rule it formalises in its docstring. -/

open Sys2Proof Sys2Proof.Machine

/-! ## Encoding -/

/-- R83, R90: words written out from the encoding decode to the commands they stand for, at least one of each row. That
the trace word of TICK is read as a TICK is the mixed trace of R81 (log 11). -/
def Obligations.CommandWordsDecode : Prop :=
  decodeWord 0x00000000#32 = .instr .nop ∧
  decodeWord 0x010001B8#32 = .instr (.setFreq 440#24) ∧
  decodeWord 0x02000003#32 = .instr (.setWave 3#3) ∧
  decodeWord 0x0300000A#32 = .instr (.setAttack 10#16) ∧
  decodeWord 0x0400FFFF#32 = .instr (.setDecay 65535#16) ∧
  decodeWord 0x050003E8#32 = .instr (.setSustain 1000#10) ∧
  decodeWord 0x060000C8#32 = .instr (.setRelease 200#16) ∧
  decodeWord 0x070000FF#32 = .instr (.setGain 255#8) ∧
  decodeWord 0x0800C000#32 = .instr (.setThresh 1#1 16384#15) ∧
  decodeWord 0x0900000F#32 = .instr (.setLpShift 15#4) ∧
  decodeWord 0x0A000640#32 = .instr (.setPwmMax 1600#16) ∧
  decodeWord 0x0B000320#32 = .instr (.setPwmCenter 800#16) ∧
  decodeWord 0x10000001#32 = .instr (.noteOn 1#1) ∧
  decodeWord 0x11000000#32 = .instr .noteOff ∧
  decodeWord 0x12000000#32 = .instr .filterReset ∧
  decodeWord 0x2000001A#32 = .instr (.read 26#5) ∧
  decodeTrace (bytesOfWord 0x80000000#32) = .instr .tick ∧
  decodeWord 0x80000000#32 = .rejected .wrongPort 0x80000000#32

/-- R82, R83, R90: the decoder gives back every encoded instruction, with every operand at every value of its field:
every command on the command port, and TICK in a mixed trace (R81, log 11), while the command port rejects its word
(R86). -/
def Obligations.DecodeOfEncode : Prop :=
  (∀ i : Instr, i ≠ .tick → decodeBytes (encodeBytes i) = .instr i) ∧
  (∀ i : Instr, decodeTrace (encodeBytes i) = .instr i) ∧
  decodeBytes (encodeBytes .tick) = .rejected .wrongPort tickWord

/-- R88: a word that decodes to an instruction is that instruction's only spelling, and no word of the command port is
TICK. -/
def Obligations.LegalSpellingIsUnique : Prop :=
  ∀ (w : Word) (i : Instr), decodeWord w = .instr i → encode i = w ∧ i ≠ .tick

/-- The sixteen opcodes of the command port with the number of operand bits at the bottom of ARG, from R82 and R83. -/
def formatWidths : List (Nat × Nat) :=
  [(0x00, 0), (0x01, 24), (0x02, 3), (0x03, 16), (0x04, 16), (0x05, 10), (0x06, 16), (0x07, 8), (0x08, 16), (0x09, 4),
    (0x0A, 16), (0x0B, 16), (0x10, 1), (0x11, 0), (0x12, 0), (0x20, 5)]

/-- R84, R85, R86, R88: every word is exactly one of: a legal spelling (its OP is assigned and no reserved bit is set),
RESERVED_BITS (its OP is assigned and a reserved bit is set), ILLEGAL_OP (its OP is in the unassigned ranges), WRONG_PORT
(its OP is 0x80); and the rows do not overlap. -/
def Obligations.AcceptanceOfEveryWord : Prop :=
  (∀ w : Word,
    ((∃ i, decodeWord w = .instr i) ↔
      ∃ p ∈ formatWidths, w.toNat / 2 ^ 24 = p.1 ∧ w.toNat % 2 ^ 24 < 2 ^ p.2) ∧
    (decodeWord w = .rejected .reservedBits w ↔
      ∃ p ∈ formatWidths, w.toNat / 2 ^ 24 = p.1 ∧ 2 ^ p.2 ≤ w.toNat % 2 ^ 24) ∧
    (decodeWord w = .rejected .illegalOp w ↔
      (0x0C ≤ w.toNat / 2 ^ 24 ∧ w.toNat / 2 ^ 24 ≤ 0x0F) ∨ (0x13 ≤ w.toNat / 2 ^ 24 ∧ w.toNat / 2 ^ 24 ≤ 0x1F) ∨
      (0x21 ≤ w.toNat / 2 ^ 24 ∧ w.toNat / 2 ^ 24 ≤ 0x7F) ∨ (0x81 ≤ w.toNat / 2 ^ 24)) ∧
    (decodeWord w = .rejected .wrongPort w ↔ w.toNat / 2 ^ 24 = 0x80)) ∧
  (∀ o o' : Opcode, o.code = o'.code → o = o') ∧ (∀ o : Opcode, o.mask &&& 0xFF000000#32 = 0xFF000000#32)

/-- R87: the only word that decodes to NOP is 0x00000000, and every other word with OP 0x00 is rejected with
RESERVED_BITS; and NOP changes no register and shows nothing (R217). -/
def Obligations.NopIsTheOnlyNoOperation : Prop :=
  (∀ w : Word, decodeWord w = .instr .nop ↔ w = 0#32) ∧
  (∀ w : Word, w.toNat < 2 ^ 24 → w ≠ 0#32 → decodeWord w = .rejected .reservedBits w) ∧
  ∀ s : State, exec .nop s = .next s

/-- R89, R90, R91: the examples of R90 assemble to their words, an operand that does not fit its field is refused while
one that fails a range check is encoded, and the pseudo-instructions expand in the order of R91. How blanks and commas
separate the text is the model's choice (log 16). -/
def Obligations.AssemblerExamples : Prop :=
  assemble "set_freq 440 ; A4" = some [Event.word 0x010001B8#32] ∧
  assemble "set_wave saw" = some [Event.word 0x02000002#32] ∧
  assemble "set_thresh 16384, sym" = some [Event.word 0x0800C000#32] ∧
  assemble "note_on fr" = some [Event.word 0x10000001#32] ∧
  assemble "rd ENV_AMP" = some [Event.word 0x20000007#32] ∧
  assemble "tick" = some [.tickPulse] ∧
  assemble "set_sustain 0x3E9" = some [Event.word 0x050003E9#32] ∧
  assemble "set_sustain 1024" = none ∧
  assemble "set_profile 10, 50, 700, 200" =
    some [Event.word 0x0300000A#32, Event.word 0x04000032#32, Event.word 0x050002BC#32, Event.word 0x060000C8#32] ∧
  assemble "set_pwm 1600, 800" = some [Event.word 0x0A000640#32, Event.word 0x0B000320#32] ∧
  assemble "play 440, saw" = some [Event.word 0x010001B8#32, Event.word 0x02000002#32, Event.word 0x10000001#32]

/-! ## What each command does -/

/-- R101: SET_FREQ writes FREQ_HZ and PHASE_INC in one step and nothing else (PHASE_ACC is kept), PHASE_INC being
`min(fdiv(V * 2^32, SR), 2^32 − 1)`; the frequency 0 is rejected with RANGE. -/
def Obligations.SetFreqResult : Prop :=
  ∀ (v : BitVec 24) (s : State),
    (encode (.setFreq v)).toNat = 0x01000000 + v.toNat ∧
    (v ≠ 0#24 → 1 ≤ s.config.sampleRate →
      ∃ p : BitVec 32, p.toNat = min (v.toNat * 2 ^ 32 / s.config.sampleRate) (2 ^ 32 - 1) ∧
        (s.config.sampleRate ≤ v.toNat → p = 0xFFFFFFFF#32) ∧
        (s.config.sampleRate = 20000 → v = 440#24 → p = 94489280#32) ∧
        exec (.setFreq v) s = .next { s with regs := { s.regs with freqHz := v, phaseInc := p } }) ∧
    exec (.setFreq 0#24) s = .next (rejectCommand .range 0x01000000#32 s)

/-- R102: SET_WAVE writes WAVE_SEL and nothing else; the selectors 5, 6 and 7 are rejected with RANGE. -/
def Obligations.SetWaveResult : Prop :=
  ∀ (v : BitVec 3) (s : State),
    (encode (.setWave v)).toNat = 0x02000000 + v.toNat ∧
    exec (.setWave v) s =
      if v = 5#3 ∨ v = 6#3 ∨ v = 7#3 then .next (rejectCommand .range (encode (.setWave v)) s)
      else .next { s with regs := { s.regs with waveSel := v } }

/-- R131, R132, R134: SET_ATTACK, SET_DECAY and SET_RELEASE write their profile register and nothing else, whatever the
value, 0 included. -/
def Obligations.ProfileTimeCommandsResult : Prop :=
  ∀ (v : BitVec 16) (s : State),
    (encode (.setAttack v)).toNat = 0x03000000 + v.toNat ∧ (encode (.setDecay v)).toNat = 0x04000000 + v.toNat ∧
    (encode (.setRelease v)).toNat = 0x06000000 + v.toNat ∧
    exec (.setAttack v) s = .next { s with regs := { s.regs with attackMs := v } } ∧
    exec (.setDecay v) s = .next { s with regs := { s.regs with decayMs := v } } ∧
    exec (.setRelease v) s = .next { s with regs := { s.regs with releaseMs := v } }

/-- R133: SET_SUSTAIN writes SUSTAIN_LVL and nothing else; 1001 to 1023 are rejected with RANGE. -/
def Obligations.SetSustainResult : Prop :=
  ∀ (v : BitVec 10) (s : State),
    (encode (.setSustain v)).toNat = 0x05000000 + v.toNat ∧
    exec (.setSustain v) s =
      if 1000 < v.toNat then .next (rejectCommand .range (encode (.setSustain v)) s)
      else .next { s with regs := { s.regs with sustainLvl := v } }

/-- R173, R176: SET_LPSHIFT and SET_GAIN write their register and nothing else, whatever the value; LP_PREV is kept. -/
def Obligations.ShiftAndGainCommandsResult : Prop :=
  ∀ (k : BitVec 4) (g : BitVec 8) (s : State),
    (encode (.setLpShift k)).toNat = 0x09000000 + k.toNat ∧ (encode (.setGain g)).toNat = 0x07000000 + g.toNat ∧
    exec (.setLpShift k) s = .next { s with regs := { s.regs with lpShift := k } } ∧
    exec (.setGain g) s = .next { s with regs := { s.regs with gain := g } }

/-- R178: SET_THRESH writes THRESH (bits 14:0 of SC_CTRL) and SYM (bit 15) in one step and nothing else. -/
def Obligations.SetThreshResult : Prop :=
  ∀ (sym : BitVec 1) (v : BitVec 15) (s : State),
    (encode (.setThresh sym v)).toNat = 0x08000000 + 32768 * sym.toNat + v.toNat ∧
    ∃ c : BitVec 16, c.toNat = 32768 * sym.toNat + v.toNat ∧ threshOf c = v ∧ symOf c = sym ∧
      exec (.setThresh sym v) s = .next { s with regs := { s.regs with scCtrl := c } }

/-- R201, R202: SET_PWM_MAX and SET_PWM_CENTER write their register and nothing else, whatever the value; PWM_DUTY is
not recomputed. -/
def Obligations.PwmCommandsResult : Prop :=
  ∀ (v : BitVec 16) (s : State),
    (encode (.setPwmMax v)).toNat = 0x0A000000 + v.toNat ∧ (encode (.setPwmCenter v)).toNat = 0x0B000000 + v.toNat ∧
    exec (.setPwmMax v) s = .next { s with regs := { s.regs with pwmMax := v } } ∧
    exec (.setPwmCenter v) s = .next { s with regs := { s.regs with pwmCenter := v } }

/-- R135: NOTE_ON latches the profile (`MsToTicks(ms) = fdiv(ms * SR, 1000)`, R130), enters ATTACK with ENV_ELAPSED and
ENV_AMP 0, clears LP_PREV with FR = 1 only, and writes nothing else, from any state of the envelope. -/
def Obligations.NoteOnResult : Prop :=
  ∀ (fr : BitVec 1) (s : State), s.config.Wf →
    (encode (.noteOn fr)).toNat = 0x10000000 + fr.toNat ∧
    ∃ a d r : BitVec 32,
      a.toNat = s.regs.attackMs.toNat * s.config.sampleRate / 1000 ∧
      d.toNat = s.regs.decayMs.toNat * s.config.sampleRate / 1000 ∧
      r.toNat = s.regs.releaseMs.toNat * s.config.sampleRate / 1000 ∧
      exec (.noteOn fr) s =
        .next { s with
          regs := { s.regs with
            envATicks := a, envDTicks := d, envSLvl := s.regs.sustainLvl, envRTicks := r, envState := 1#3,
            envElapsed := 0#32, envAmp := 0#10, lpPrev := if fr = 1#1 then 0#16 else s.regs.lpPrev } }

/-- R136: NOTE_OFF in ATTACK, DECAY or SUSTAIN enters RELEASE from the amplitude reached and writes nothing else; in
every other state it has no effect and is no error. -/
def Obligations.NoteOffResult : Prop :=
  ∀ s : State,
    encode .noteOff = 0x11000000#32 ∧
    exec .noteOff s =
      if s.regs.envState = 1#3 ∨ s.regs.envState = 2#3 ∨ s.regs.envState = 3#3 then
        .next { s with
          regs := { s.regs with envRelStart := s.regs.envAmp, envState := 4#3, envElapsed := 0#32 } }
      else .next s

/-- R172: FILTER_RESET clears LP_PREV and touches nothing else. -/
def Obligations.FilterResetResult : Prop :=
  ∀ s : State, encode .filterReset = 0x12000000#32 ∧
    exec .filterReset s = .next { s with regs := { s.regs with lpPrev := 0#16 } }

/-- R61, R218, R219: READ of a mapped address puts the register's value on the read-data lines (STATUS composed of its
fields, LP_PREV and SAMPLE_OUT sign-extended, every other narrow register zero-extended) and has no other effect; READ
of 0x1B to 0x1F is rejected with RANGE and returns 0. -/
def Obligations.ReadResult : Prop :=
  (∀ s : State, ∀ p ∈ [(0x01#5, s.regs.phaseAcc.toNat), (0x02#5, s.regs.phaseInc.toNat), (0x03#5, s.regs.freqHz.toNat),
      (0x04#5, s.regs.waveSel.toNat), (0x05#5, s.regs.noiseLfsr.toNat), (0x06#5, s.regs.envState.toNat),
      (0x07#5, s.regs.envAmp.toNat), (0x08#5, s.regs.envElapsed.toNat), (0x09#5, s.regs.envRelStart.toNat),
      (0x0A#5, s.regs.attackMs.toNat), (0x0B#5, s.regs.decayMs.toNat), (0x0C#5, s.regs.sustainLvl.toNat),
      (0x0D#5, s.regs.releaseMs.toNat), (0x0E#5, s.regs.envATicks.toNat), (0x0F#5, s.regs.envDTicks.toNat),
      (0x10#5, s.regs.envSLvl.toNat), (0x11#5, s.regs.envRTicks.toNat), (0x12#5, s.regs.gain.toNat),
      (0x13#5, s.regs.scCtrl.toNat), (0x14#5, s.regs.lpShift.toNat), (0x16#5, s.regs.pwmMax.toNat),
      (0x17#5, s.regs.pwmCenter.toNat), (0x18#5, s.regs.pwmDuty.toNat), (0x1A#5, s.regs.errWord.toNat),
      (0x00#5, s.regs.envState.toNat + 2 ^ 4 * s.regs.err.toNat + 2 ^ 8 * s.regs.errCode.toNat)],
    ∃ v : Word, v.toNat = p.2 ∧ exec (.read p.1) s = .next { s with outputs := s.outputs ++ [.readData v] }) ∧
  (∀ s : State, ∀ p ∈ [(0x15#5, s.regs.lpPrev.toInt), (0x19#5, s.regs.sampleOut.toInt)],
    ∃ v : Word, v.toInt = p.2 ∧ exec (.read p.1) s = .next { s with outputs := s.outputs ++ [.readData v] }) ∧
  (∀ (a : BitVec 5) (s : State), 0x1B ≤ a.toNat →
    exec (.read a) s =
      .next { s with
        regs := recordError .range (encode (.read a)) s.regs, outputs := s.outputs ++ [.readData 0#32] })

/-! ## TICK -/

/-- R220, R179: in every state with the invariant of R48, TICK completes and is the pipeline of R220 in its order: phase
and noise, waveform, envelope, scale, low-pass, gain, soft clip, SAMPLE_OUT, PWM_DUTY, one duty value emitted. No
narrowing loses anything there: the registers hold the exact integers of the rules (R10). Every register the rule does
not write is kept. -/
def Obligations.TickPipeline : Prop :=
  ∀ s : State, s.Inv →
    ∃ (raw : Int) (env : EnvStep) (t : State),
      exec .tick s = .next t ∧
      t.regs.phaseAcc.toNat = (s.regs.phaseAcc.toNat + s.regs.phaseInc.toNat) % 2 ^ 32 ∧
      t.regs.noiseLfsr = lfsrStep s.regs.noiseLfsr ∧
      wave s.regs.waveSel (t.regs.phaseAcc.extractLsb' 24 8) t.regs.noiseLfsr = some raw ∧
      envProcess s.regs = some env ∧
      t.regs.envState = env.state ∧ t.regs.envAmp = env.amp ∧ t.regs.envElapsed = env.elapsed ∧
      t.regs.lpPrev.toInt = lowPass s.regs.lpShift.toNat s.regs.lpPrev.toInt (scale raw t.regs.envAmp.toNat) ∧
      t.regs.sampleOut.toInt =
        softClip (applyGain t.regs.lpPrev.toInt s.regs.gain.toNat s.regs.freqHz.toNat) (threshOf s.regs.scCtrl).toNat
          (symOf s.regs.scCtrl) ∧
      (t.regs.pwmDuty.toNat : Int) = pwmMap t.regs.sampleOut.toInt s.regs.pwmMax.toNat s.regs.pwmCenter.toNat ∧
      t = { s with
        regs := { s.regs with
          phaseAcc := t.regs.phaseAcc, noiseLfsr := t.regs.noiseLfsr, envState := t.regs.envState,
          envAmp := t.regs.envAmp, envElapsed := t.regs.envElapsed, lpPrev := t.regs.lpPrev,
          sampleOut := t.regs.sampleOut, pwmDuty := t.regs.pwmDuty },
        outputs := s.outputs ++ [.pwm t.regs.pwmDuty] }

/-- R106, spec/93 I20: TICK completes exactly when WAVE_SEL and ENV_STATE are at most 4. It faults on every other
WAVE_SEL (R106), and refuses every other ENV_STATE (I20). That the fault of R106 is preferred to the refusal of I20, also
when both selectors are illegal, is the model's choice (log 6). -/
def Obligations.TickStopsOnIllegalSelectors : Prop :=
  ∀ s : State,
    (4 < s.regs.waveSel.toNat → exec .tick s = .fault .illegalWaveSel) ∧
    (s.regs.waveSel.toNat ≤ 4 → 4 < s.regs.envState.toNat → exec .tick s = .refused .unreachableState) ∧
    (s.regs.waveSel.toNat ≤ 4 → s.regs.envState.toNat ≤ 4 → ∃ t, exec .tick s = .next t)

/-- R100: PhaseInc(0) is 0; below SR it is strictly increasing, neighbours at least 256 apart; from SR on it is
2^32 − 1; and the period 2^32 / PhaseInc(f) is at least SR / f and exceeds it by less than one tick, for every f ≥ 1 when
SR ≤ 65536 and for every f ≥ 2 when SR ≤ 80000, but not at SR = 79951 with f = 1. -/
def Obligations.PhaseIncrementLaws : Prop :=
  ∀ sr : Nat, 1 ≤ sr → sr < 2 ^ 24 →
    phaseInc sr 0 = 0 ∧
    (∀ f, 1 ≤ f → f < sr → phaseInc sr f = f * 2 ^ 32 / sr) ∧
    (∀ f, 1 ≤ f → f + 1 < sr → phaseInc sr f + 256 ≤ phaseInc sr (f + 1)) ∧
    (∀ f, sr ≤ f → phaseInc sr f = 2 ^ 32 - 1) ∧
    (∀ f, 1 ≤ f → f < 2 ^ 24 → sr ≤ 65536 ∨ (2 ≤ f ∧ sr ≤ 80000) →
      sr * phaseInc sr f ≤ f * 2 ^ 32 ∧ f * 2 ^ 32 < (sr + f) * phaseInc sr f) ∧
    ¬ (1 * 2 ^ 32 < (79951 + 1) * phaseInc 79951 1)

/-- R105: the noise step is the Galois step with taps 0xB400; it keeps a non-zero state non-zero; and from any non-zero
value it visits all 65535 non-zero values before it repeats. -/
def Obligations.NoiseVisitsEveryNonzeroState : Prop :=
  (∀ l : BitVec 16, (lfsrStep l).toNat =
    if l.toNat % 2 = 1 then (l.toNat / 2) ^^^ 0xB400 else l.toNat / 2) ∧
  (∀ l m : BitVec 16, l ≠ 0#16 → m ≠ 0#16 → ∃ n < 65535, lfsrStep^[n] l = m) ∧
  (∀ l : BitVec 16, l ≠ 0#16 → lfsrStep^[65535] l = l)

/-- R109, R108: the contents of the sine ROM for its first quarter wave and the peak after it, and the two symmetries
that give every other entry from them; and its peaks. -/
def Obligations.SineRomSymmetry : Prop :=
  (List.range 65).map (fun i => sineRom (BitVec.ofNat 8 i)) =
    [0, 804, 1608, 2410, 3212, 4011, 4808, 5602, 6393, 7179, 7962, 8739, 9512, 10278, 11039, 11793] ++
    [12539, 13279, 14010, 14732, 15446, 16151, 16846, 17530, 18204, 18868, 19519, 20159, 20787, 21403, 22005, 22594] ++
    [23170, 23731, 24279, 24811, 25329, 25832, 26319, 26790, 27245, 27683, 28105, 28510, 28898, 29268, 29621, 29956] ++
    [30273, 30571, 30852, 31113, 31356, 31580, 31785, 31971, 32137, 32285, 32412, 32521, 32609, 32678, 32728, 32757] ++
    [32767] ∧
  (∀ i : Nat, 1 ≤ i → i ≤ 127 → sineRom (BitVec.ofNat 8 i) = sineRom (BitVec.ofNat 8 (128 - i))) ∧
  (∀ i : Nat, i ≤ 127 → sineRom (BitVec.ofNat 8 (i + 128)) = -sineRom (BitVec.ofNat 8 i)) ∧
  sineRom 64#8 = 32767 ∧ sineRom 192#8 = -32767 ∧ sineRom 0#8 = 0 ∧ sineRom 128#8 = 0

/-- R106, R107, R110, R111, R112, R113: the five waveforms. The sine is the ROM's entry at the index; the square is 32767
in the first half period and −32768 in the second; the saw rises in equal steps of 257 from −32768; the triangle rises
over the first half and mirrors it over the second; the noise is the LFSR read as a two's-complement sample, whatever the
index. -/
def Obligations.AlgebraicWaveforms : Prop :=
  ∀ (idx : BitVec 8) (lfsr : BitVec 16),
    wave 0#3 idx lfsr = some (sineRom idx) ∧
    wave 1#3 idx lfsr = some (if idx.toNat < 128 then (32767 : Int) else -32768) ∧
    wave 2#3 idx lfsr = some (257 * (idx.toNat : Int) - 32768) ∧
    (∃ y, wave 3#3 idx lfsr = some y ∧ wave 3#3 (255#8 - idx) lfsr = some y ∧
      (idx.toNat < 128 → 127 * (y + 32768) ≤ idx.toNat * 65535 ∧ idx.toNat * 65535 < 127 * (y + 32769))) ∧
    wave 4#3 idx lfsr = some lfsr.toInt

/-- R114: the range of each waveform; every value is a 16-bit sample, and noise is never 0 since the LFSR is not. -/
def Obligations.WaveformRange : Prop :=
  ∀ (sel : BitVec 3) (idx : BitVec 8) (lfsr : BitVec 16) (y : Int), wave sel idx lfsr = some y →
    (sel = 0#3 → -32767 ≤ y ∧ y ≤ 32767) ∧ (sel = 1#3 → y = -32768 ∨ y = 32767) ∧
    (sel = 4#3 → lfsr ≠ 0#16 → y ≠ 0) ∧ -32768 ≤ y ∧ y ≤ 32767

/-- R130: at every legal SR a duration of up to 65535 ms is a number of ticks that fits 32 bits, rounded down; a
duration shorter than one tick is 0. -/
def Obligations.MillisecondsToTicks : Prop :=
  ∀ c : Config, c.Wf → ∀ ms : Nat, ms ≤ 65535 →
    msToTicks c.sampleRate ms * 1000 ≤ ms * c.sampleRate ∧ ms * c.sampleRate < (msToTicks c.sampleRate ms + 1) * 1000 ∧
    msToTicks c.sampleRate ms < 2 ^ 32 ∧ (ms * c.sampleRate < 1000 → msToTicks c.sampleRate ms = 0)

/-- R137 to R142: the envelope after a TICK, state by state, in exact arithmetic: the counter first (it stops at
2^32 − 1), then the ramp or the timed end of the state. -/
def Obligations.EnvelopeTickResult : Prop :=
  ∀ s t : State, s.Inv → exec .tick s = .next t →
    let e := min (s.regs.envElapsed.toNat + 1) (2 ^ 32 - 1)
    let a := s.regs.envATicks.toNat
    let d := s.regs.envDTicks.toNat
    let r := s.regs.envRTicks.toNat
    let lvl := s.regs.envSLvl.toNat
    let l := s.regs.envRelStart.toNat
    (s.regs.envState = 0#3 → t.regs.envState = 0#3 ∧ t.regs.envAmp = 0#10 ∧ t.regs.envElapsed.toNat = e) ∧
    (s.regs.envState = 1#3 → a ≤ e → t.regs.envState = 2#3 ∧ t.regs.envAmp = 1000#10 ∧ t.regs.envElapsed = 0#32) ∧
    (s.regs.envState = 1#3 → e < a →
      t.regs.envState = 1#3 ∧ t.regs.envAmp.toNat = 1000 * e / a ∧ t.regs.envElapsed.toNat = e) ∧
    (s.regs.envState = 2#3 → d ≤ e →
      t.regs.envState = 3#3 ∧ t.regs.envAmp = s.regs.envSLvl ∧ t.regs.envElapsed = 0#32) ∧
    (s.regs.envState = 2#3 → e < d →
      t.regs.envState = 2#3 ∧ t.regs.envAmp.toNat = 1000 - (1000 - lvl) * e / d ∧ t.regs.envElapsed.toNat = e) ∧
    (s.regs.envState = 3#3 →
      t.regs.envState = 3#3 ∧ t.regs.envAmp = s.regs.envSLvl ∧ t.regs.envElapsed.toNat = e) ∧
    (s.regs.envState = 4#3 → r ≤ e → t.regs.envState = 0#3 ∧ t.regs.envAmp = 0#10 ∧ t.regs.envElapsed = 0#32) ∧
    (s.regs.envState = 4#3 → e < r →
      t.regs.envState = 4#3 ∧ t.regs.envAmp.toNat = l - l * e / r ∧ t.regs.envElapsed.toNat = e)

/-- R115: after n TICKs alone the phase accumulator is `(a0 + n * PHASE_INC) mod 2^32`, and with PHASE_INC = 0 it holds
still. -/
def Obligations.PhaseAfterTicks : Prop :=
  ∀ (s : State) (n : Nat), s.Inv →
    ∃ t, runSteps n (s.withTicks n) = .next t ∧
      t.regs.phaseAcc.toNat = (s.regs.phaseAcc.toNat + n * s.regs.phaseInc.toNat) % 2 ^ 32 ∧
      t.regs.noiseLfsr = lfsrStep^[n] s.regs.noiseLfsr

/-- R145 (b): over two TICKs of one ATTACK episode the amplitude does not fall, and over two of one DECAY or RELEASE
episode it does not rise; the TICK that ends the episode may be the second. In SUSTAIN it is ENV_S_LVL. -/
def Obligations.RampsAreMonotone : Prop :=
  ∀ s t u : State, s.Inv → exec .tick s = .next t → exec .tick t = .next u →
    (s.regs.envState = 1#3 → t.regs.envState = 1#3 → t.regs.envAmp.toNat ≤ u.regs.envAmp.toNat) ∧
    (s.regs.envState = 2#3 → t.regs.envState = 2#3 → u.regs.envAmp.toNat ≤ t.regs.envAmp.toNat) ∧
    (s.regs.envState = 4#3 → t.regs.envState = 4#3 → u.regs.envAmp.toNat ≤ t.regs.envAmp.toNat) ∧
    (t.regs.envState = 3#3 → u.regs.envAmp = t.regs.envSLvl)

/-- R170: the properties of amplitude scaling. -/
def Obligations.ScaleLaws : Prop :=
  ∀ (raw : Int) (amp : Nat), amp ≤ 1000 →
    (scale raw amp).natAbs = raw.natAbs * amp / 1000 ∧ (scale raw amp).natAbs ≤ raw.natAbs ∧
    0 ≤ scale raw amp * raw ∧ scale (-raw) amp = -scale raw amp ∧ scale raw 1000 = raw ∧ scale raw 0 = 0

/-- R171: the low-pass step goes toward the input by the magnitude ceil(|d| / 2^k), so it stays between the last output
and the input; shift 0 passes the input through; and the filter is symmetric. -/
def Obligations.LowPassLaws : Prop :=
  ∀ (k : Nat) (p x : Int),
    min p x ≤ lowPass k p x ∧ lowPass k p x ≤ max p x ∧
    ((lowPass k p x - p).natAbs : Int) * 2 ^ k < (x - p).natAbs + 2 ^ k ∧
    ((x - p).natAbs : Int) ≤ (lowPass k p x - p).natAbs * 2 ^ k ∧
    lowPass 0 p x = x ∧ lowPass k (-p) (-x) = -lowPass k p x

/-- R180: for a constant input the distance to it falls by at least 1 and by at least the factor `1 − 2^−k` in each call,
and is larger after the call if it was larger before; so from every 16-bit start the filter reaches a 16-bit input
exactly within the number of TICKs that the rule's table gives for the shift, and the distance 65535 takes that many. -/
def Obligations.LowPassConverges : Prop :=
  (∀ (k : Nat) (x q : Int), q ≠ x →
    (x - lowPass k q x).natAbs + 1 ≤ (x - q).natAbs ∧
    2 ^ k * (x - lowPass k q x).natAbs + (x - q).natAbs ≤ 2 ^ k * (x - q).natAbs) ∧
  (∀ (k : Nat) (x q y r : Int), (x - q).natAbs ≤ (y - r).natAbs →
    (x - lowPass k q x).natAbs ≤ (y - lowPass k r y).natAbs) ∧
  ∀ p ∈ [(0, 1), (1, 16), (2, 37), (3, 72), (4, 139), (5, 259), (6, 477), (7, 870), (8, 1565), (9, 2780), (10, 4856),
      (11, 8310), (12, 13847), (13, 22264), (14, 34133), (15, 49151)],
    (∀ x q : Int, -32768 ≤ x → x ≤ 32767 → -32768 ≤ q → q ≤ 32767 →
      (fun y => lowPass p.1 y x)^[p.2] q = x) ∧
    (fun y => lowPass p.1 y 32767)^[p.2 - 1] (-32768) ≠ 32767

/-- R181: after FILTER_RESET one low-pass call with a positive input and a shift of at least 1 returns
ceil(x / 2^k), strictly between 0 and x when x ≥ 2, and x itself when x = 1. -/
def Obligations.LowPassAfterReset : Prop :=
  ∀ (k : Nat) (x : Int), 1 ≤ k → 0 < x →
    x ≤ lowPass k 0 x * 2 ^ k ∧ (lowPass k 0 x - 1) * 2 ^ k < x ∧
    (2 ≤ x → 0 < lowPass k 0 x ∧ lowPass k 0 x < x) ∧ lowPass k 0 1 = 1

/-- R174, R175: the compensation rises from 128 to 192 and stays there; the effective gain is at most 382; and the gain
stage is the floor of x * ge / 128 saturated to the sample range, with gain 0 giving 0 and the large gains saturating. -/
def Obligations.GainLaws : Prop :=
  (∀ f, 128 ≤ compQ7 f ∧ compQ7 f ≤ 192 ∧ compQ7 f ≤ compQ7 (f + 1) ∧ (4000 ≤ f → compQ7 f = 192) ∧
    (f < 4000 → compQ7 f = 128 + f * 64 / 4000)) ∧
  (∀ g f : Nat, g ≤ 255 → 0 ≤ effectiveGain g f ∧ effectiveGain g f ≤ 382 ∧
    effectiveGain g f = (g * compQ7 f / 128 : Nat)) ∧
  (∀ (x : Int) (g f : Nat),
    applyGain x g f = max (-32768) (min 32767 (x * effectiveGain g f / 128)) ∧ applyGain x 0 f = 0) ∧
  (∀ f, 4000 ≤ f → applyGain 32767 255 f = 32767 ∧ applyGain (-32768) 255 f = -32768) ∧
  (∀ g ≤ 255, applyGain 1000 g 2000 ≤ 2484 ∧ 0 ≤ applyGain 1000 g 2000)

/-- R177: the properties of the soft clipper in both modes: it never leaves the sample range (never below −32767 by
magnitude), is non-decreasing, keeps what is at or below the threshold, and is `T + ((m − T) >> 1)` above it. -/
def Obligations.SoftClipLaws : Prop :=
  ∀ (t : Nat) (x y : Int), t ≤ 32767 → -32768 ≤ x → x ≤ 32767 → -32768 ≤ y → y ≤ 32767 →
    (∀ sym, -32768 ≤ softClip x t sym ∧ softClip x t sym ≤ 32767) ∧ -32767 ≤ softClip x t 1#1 ∧
    (∀ sym, x ≤ y → softClip x t sym ≤ softClip y t sym) ∧
    (x ≤ t → softClip x t 0#1 = x) ∧ (t < x → softClip x t 0#1 = t + (x - t) / 2) ∧
    ((x.natAbs : Int) ≤ t → softClip x t 1#1 = x) ∧
    (t < x.natAbs → (softClip x t 1#1).natAbs = t + (x.natAbs - t) / 2) ∧
    softClip (-x) t 1#1 = -softClip x t 1#1 ∧ (∀ sym, softClip (t + 1) t sym = t)

/-- R205: the laws of the PWM mapping. -/
def Obligations.PwmMapLaws : Prop :=
  ∀ (c c' : Int) (m center : Nat), m ≤ 65535 → center ≤ 65535 →
    (0 ≤ pwmMap c m center ∧ pwmMap c m center ≤ m) ∧
    (c ≤ c' → pwmMap c m center ≤ pwmMap c' m center) ∧
    pwmMap 0 m center = min center m ∧
    (-32768 ≤ c → c ≤ 32767 →
      (-(m / 2 : Nat) - 1 : Int) ≤ asr (c * m) 16 ∧ asr (c * m) 16 ≤ (m / 2 : Nat) ∧
      pwmMap c m ((m + 1) / 2) = ((m + 1) / 2 : Nat) + c * m / 65536)

/-- R44, R205: after any TICK PWM_DUTY lies in [0, PWM_MAX] for the PWM_MAX that TICK used, whatever the state
before. -/
def Obligations.DutyWithinPwmMax : Prop :=
  ∀ s t : State, exec .tick s = .next t → t.regs.pwmDuty.toNat ≤ s.regs.pwmMax.toNat ∧ t.regs.pwmMax = s.regs.pwmMax

/-! ## Command errors -/

/-- The cause for which a word is rejected, if it is: R216 for the acceptance, then the range check of R83. -/
def rejectionOf (w : Word) : Option CmdError :=
  match decodeWord w with
  | .rejected c _ => some c
  | .instr i => if i.wellFormed then none else some .range
  | .notOneWord => none

/-- R242: a step that takes a rejected command word writes the error record if it is empty, with code 1 for
ILLEGAL_OP, 2 for WRONG_PORT, 3 for RESERVED_BITS and 4 for RANGE (R241), and changes no other register; a rejected READ
returns 0 (R216). Once an error is recorded no step but the reset input changes the record, and the reset input clears
it (R286). -/
def Obligations.RejectedCommandRecords : Prop :=
  (∀ (s : State) (w : Word) (rest : List Event) (c : CmdError), s.Inv → s.pending = Event.word w :: rest →
    rejectionOf w = some c →
    step s = .next { s with
      regs :=
        if s.regs.err = 0#1 then
          { s.regs with
            err := 1#1
            errCode := match c with | .illegalOp => 1#3 | .wrongPort => 2#3 | .reservedBits => 3#3 | .range => 4#3
            errWord := w }
        else s.regs
      pending := rest
      outputs := s.outputs ++ (if w.toNat / 2 ^ 24 = 0x20 then [.readData 0#32] else []) }) ∧
  (∀ s t : State, step s = .next t → s.regs.err = 1#1 → s.pending.head? ≠ some .reset →
    t.regs.err = 1#1 ∧ t.regs.errCode = s.regs.errCode ∧ t.regs.errWord = s.regs.errWord) ∧
  (∀ s t : State, step s = .next t → s.pending.head? = some .reset →
    t.regs.err = 0#1 ∧ t.regs.errCode = 0#3 ∧ t.regs.errWord = 0#32)

/-- An instruction that its own range check rejects, from R83: SET_FREQ 0, SET_WAVE above 4, SET_SUSTAIN above 1000 and
READ above 0x1A. -/
def failsRangeCheck (i : Instr) : Prop :=
  i = .setFreq 0#24 ∨ (∃ v : BitVec 3, i = .setWave v ∧ 4 < v.toNat) ∨
    (∃ v : BitVec 10, i = .setSustain v ∧ 1000 < v.toNat) ∨ ∃ a : BitVec 5, i = .read a ∧ 0x1A < a.toNat

/-- R243: which instructions can be rejected by their range check: SET_FREQ, SET_WAVE, SET_SUSTAIN and READ only, with
code 4, and the record then holds the command's word if it was empty (that the word is the instruction's encoding: log
10); every other instruction that completes leaves the whole error record, ERR, ERR_CODE and ERR_WORD, as it is (R254:
TICK too). -/
def Obligations.OnlyRangeCheckedCommandsRaise : Prop :=
  ∀ (i : Instr) (s t : State), exec i s = .next t →
    (failsRangeCheck i → t.regs.err = 1#1 ∧
      t.regs.errCode = (if s.regs.err = 0#1 then 4#3 else s.regs.errCode) ∧
      t.regs.errWord = (if s.regs.err = 0#1 then encode i else s.regs.errWord)) ∧
    (¬ failsRangeCheck i → t.regs.err = s.regs.err ∧ t.regs.errCode = s.regs.errCode ∧ t.regs.errWord = s.regs.errWord)

/-! ## The machine as a whole -/

/-- R215, R220, R81: when the next input is a word that the decoder reads as an instruction, or a TICK pulse, the step
is that instruction's meaning on the state whose trace has moved past the input; and with nothing presented a step holds
the state (R252). The trace is the model's own (log 2), and so is the step past its end (log 3). -/
def Obligations.StepRunsDecodedInstruction : Prop :=
  (∀ (s : State) (w : Word) (i : Instr) (rest : List Event), s.Inv → s.pending = Event.word w :: rest →
    decodeWord w = .instr i → step s = exec i { s with pending := rest }) ∧
  (∀ (s : State) (rest : List Event), s.Inv → s.pending = .tickPulse :: rest →
    step s = exec .tick { s with pending := rest }) ∧
  (∀ s : State, s.Inv → s.pending = [] → step s = .next s)

/-- R66, R245: when a pulse and a command word arrive in the same instant the TICK is performed first, and the command
in the step after it: the two steps are those of the pulse followed by the word. The joint input is the model's own form
of the two arriving at once (log 7). -/
def Obligations.TickGoesFirst : Prop :=
  ∀ (s : State) (bs : List Byte) (rest : List Event), s.pending = .tickAndCommand bs :: rest →
    step s = step { s with pending := .tickPulse :: .command bs :: rest }

/-- R271: the value of every register after reset, read by its address; and SYM and THRESH of SC_CTRL. -/
def Obligations.ResetValues : Prop :=
  (List.range 27).map (fun a => (readValue (BitVec.ofNat 5 a) State.reset.regs).map BitVec.toNat) =
    [0, 0, 0, 0, 0, 0xACE1, 0, 0, 0, 0, 10, 50, 700, 200, 0, 0, 0, 0, 128, 0x6000, 1, 0, 1023, 512, 512, 0, 0].map some ∧
  threshOf State.reset.regs.scCtrl = 24576#15 ∧ symOf State.reset.regs.scCtrl = 0#1

/-- R270: the reset input sets every register to its reset value in one step, whatever the registers before. That it
keeps the configuration, the trace to come and what was shown is the model's choice (log 8). -/
def Obligations.ResetInput : Prop :=
  ∀ (s : State) (rest : List Event), s.config.Wf → s.pending = .reset :: rest →
    step s = .next { s with regs := State.reset.regs, pending := rest }

/-- R48: the state after reset has the invariant. -/
def Obligations.ResetHasInvariant : Prop := State.reset.Inv

/-- R48: every step keeps the invariant, from every state that has it; and so does the reset input from any state. -/
def Obligations.StepKeepsInvariant : Prop :=
  ∀ s t : State, s.Inv ∨ s.pending.head? = some .reset → step s = .next t → t.Inv

/-- R48, spec/93 I8, I20, R64: what a step gives no meaning: a configuration out of range; bytes that are no whole word;
and, for every input but reset, registers that break R48. That a refusal
stands for each is the model's choice (logs 5, 9, 17). -/
def Obligations.RefusedSteps : Prop :=
  ∀ s : State,
    (¬ s.config.Wf → step s = .refused .sampleRateOutOfRange) ∧
    (s.config.Wf → ∀ bs rest, s.pending = .command bs :: rest → bs.length ≠ 4 → step s = .refused .notOneWord) ∧
    (s.config.Wf → ¬ s.regs.Wf → s.pending.head? ≠ some .reset →
      (∀ bs rest, s.pending = .command bs :: rest → bs.length = 4) → step s = .refused .unreachableState)

/-- R226, R221: the block never halts: from a state with the invariant whose transactions are whole words, every run of
any length completes, whatever the words and however ticks, commands and resets fall. A step past the end of the trace
holds the state (log 3). -/
def Obligations.BlockNeverHalts : Prop :=
  ∀ (n : Nat) (s : State), s.Inv → s.InputsWhole → ∃ t, runSteps n s = .next t ∧ t.Inv

/-- R8: no run changes the configuration. -/
def Obligations.ConfigurationIsConstant : Prop :=
  ∀ (n : Nat) (s t : State), runSteps n s = .next t → t.config = s.config

/-- R21 to R47: each register is written only by the instructions its rule names; ERR, ERR_CODE (R46) and ERR_WORD (R47)
only by an instruction that its range check rejects. -/
def Obligations.RegistersWrittenOnlyByTheirInstructions : Prop :=
  ∀ (i : Instr) (s t : State), exec i s = .next t →
    (i ≠ .tick → t.regs.phaseAcc = s.regs.phaseAcc ∧ t.regs.noiseLfsr = s.regs.noiseLfsr ∧
      t.regs.pwmDuty = s.regs.pwmDuty ∧ t.regs.sampleOut = s.regs.sampleOut) ∧
    ((∀ v, i ≠ .setFreq v) → t.regs.phaseInc = s.regs.phaseInc ∧ t.regs.freqHz = s.regs.freqHz) ∧
    ((∀ v, i ≠ .setWave v) → t.regs.waveSel = s.regs.waveSel) ∧
    (i ≠ .tick → i ≠ .noteOff → (∀ fr, i ≠ .noteOn fr) →
      t.regs.envState = s.regs.envState ∧ t.regs.envElapsed = s.regs.envElapsed) ∧
    (i ≠ .tick → (∀ fr, i ≠ .noteOn fr) → t.regs.envAmp = s.regs.envAmp) ∧
    (i ≠ .noteOff → t.regs.envRelStart = s.regs.envRelStart) ∧
    ((∀ v, i ≠ .setAttack v) → t.regs.attackMs = s.regs.attackMs) ∧
    ((∀ v, i ≠ .setDecay v) → t.regs.decayMs = s.regs.decayMs) ∧
    ((∀ v, i ≠ .setSustain v) → t.regs.sustainLvl = s.regs.sustainLvl) ∧
    ((∀ v, i ≠ .setRelease v) → t.regs.releaseMs = s.regs.releaseMs) ∧
    ((∀ fr, i ≠ .noteOn fr) → t.regs.envATicks = s.regs.envATicks ∧ t.regs.envDTicks = s.regs.envDTicks ∧
      t.regs.envSLvl = s.regs.envSLvl ∧ t.regs.envRTicks = s.regs.envRTicks) ∧
    ((∀ v, i ≠ .setGain v) → t.regs.gain = s.regs.gain) ∧
    ((∀ sym v, i ≠ .setThresh sym v) → t.regs.scCtrl = s.regs.scCtrl) ∧
    ((∀ v, i ≠ .setLpShift v) → t.regs.lpShift = s.regs.lpShift) ∧
    (i ≠ .tick → i ≠ .filterReset → i ≠ .noteOn 1#1 → t.regs.lpPrev = s.regs.lpPrev) ∧
    ((∀ v, i ≠ .setPwmMax v) → t.regs.pwmMax = s.regs.pwmMax) ∧
    ((∀ v, i ≠ .setPwmCenter v) → t.regs.pwmCenter = s.regs.pwmCenter) ∧
    (¬ failsRangeCheck i → t.regs.err = s.regs.err ∧ t.regs.errCode = s.regs.errCode ∧ t.regs.errWord = s.regs.errWord)

/-- R206, R226: what an instruction shows: a TICK exactly its own PWM_DUTY, a READ exactly one data word, and every other
instruction nothing. -/
def Obligations.OutputsOfEachInstruction : Prop :=
  ∀ (i : Instr) (s t : State), exec i s = .next t →
    (i = .tick → t.outputs = s.outputs ++ [.pwm t.regs.pwmDuty]) ∧
    (∀ a, i = .read a → ∃ v, t.outputs = s.outputs ++ [.readData v]) ∧
    (i ≠ .tick → (∀ a, i ≠ .read a) → t.outputs = s.outputs)

/-- R65: NOP, FILTER_RESET, NOTE_OFF and every SET_ command that completes are idempotent: performed twice in a row they
leave the state of once, a rejected one too. -/
def Obligations.SettersAreIdempotent : Prop :=
  ∀ (i : Instr) (s t : State), i ≠ .tick → (∀ fr, i ≠ .noteOn fr) → (∀ a, i ≠ .read a) → exec i s = .next t →
    exec i t = .next t

/-- R144: the transition table of the envelope, over every instruction. -/
def Obligations.EnvelopeTransitions : Prop :=
  ∀ (i : Instr) (s t : State), s.Inv → exec i s = .next t →
    let e := min (s.regs.envElapsed.toNat + 1) (2 ^ 32 - 1)
    (∀ fr, i = .noteOn fr → t.regs.envState = 1#3) ∧
    (i = .noteOff → t.regs.envState = if s.regs.envState = 0#3 then 0#3 else 4#3) ∧
    (i = .tick →
      t.regs.envState =
        if s.regs.envState = 1#3 ∧ s.regs.envATicks.toNat ≤ e then 2#3
        else if s.regs.envState = 2#3 ∧ s.regs.envDTicks.toNat ≤ e then 3#3
        else if s.regs.envState = 4#3 ∧ s.regs.envRTicks.toNat ≤ e then 0#3
        else s.regs.envState) ∧
    ((∀ fr, i ≠ .noteOn fr) → i ≠ .noteOff → i ≠ .tick → t.regs.envState = s.regs.envState)

/-- R145 (c): after NOTE_ON, TICKs alone keep the envelope in ATTACK below 1000 until TICK number max(A, 1), which gives
1000 and DECAY; and max(D, 1) further TICKs give the sustain level and SUSTAIN, not before. A and D are the durations
that the NOTE_ON latched. -/
def Obligations.AttackAndDecayLastTheirTicks : Prop :=
  ∀ (fr : BitVec 1) (s t₀ : State) (n : Nat), s.Inv → exec (.noteOn fr) s = .next t₀ →
    let a := max t₀.regs.envATicks.toNat 1
    let d := max t₀.regs.envDTicks.toNat 1
    ∃ t, runSteps n (t₀.withTicks n) = .next t ∧
      (n < a → t.regs.envState = 1#3 ∧ t.regs.envAmp.toNat < 1000) ∧
      (n = a → t.regs.envState = 2#3 ∧ t.regs.envAmp = 1000#10) ∧
      (a < n → n < a + d → t.regs.envState = 2#3) ∧
      (a + d ≤ n → t.regs.envState = 3#3 ∧ t.regs.envAmp = s.regs.sustainLvl)

/-- R145 (d): after NOTE_OFF from a sounding state, TICKs alone bring the envelope to amplitude 0 and IDLE after exactly
max(R, 1) of them, R being the release duration latched at the last NOTE_ON. -/
def Obligations.ReleaseLastsItsTicks : Prop :=
  ∀ (s t₀ : State) (n : Nat), s.Inv → (s.regs.envState = 1#3 ∨ s.regs.envState = 2#3 ∨ s.regs.envState = 3#3) →
    exec .noteOff s = .next t₀ →
    let r := max s.regs.envRTicks.toNat 1
    ∃ t, runSteps n (t₀.withTicks n) = .next t ∧
      (n < r → t.regs.envState = 4#3 ∧ t.regs.envAmp.toNat ≤ s.regs.envAmp.toNat) ∧
      (r ≤ n → t.regs.envState = 0#3 ∧ t.regs.envAmp = 0#10)

/-- R145 (e): a sounding note with no NOTE_OFF (and no reset) never reaches IDLE, whatever else the trace holds. -/
def Obligations.SoundingNoteNeverIdles : Prop :=
  ∀ (n : Nat) (s t : State), s.Inv → (s.regs.envState = 1#3 ∨ s.regs.envState = 2#3 ∨ s.regs.envState = 3#3) →
    (∀ e ∈ s.pending, e ≠ .reset ∧ e.presents 0x11000000#32 = false) → runSteps n s = .next t →
    t.regs.envState = 1#3 ∨ t.regs.envState = 2#3 ∨ t.regs.envState = 3#3

/-- R273: from reset, at any legal SR, every TICK of a run of TICKs alone emits the duty 512, one value per TICK, and
the envelope stays IDLE. -/
def Obligations.ResetIsSilent : Prop :=
  ∀ (c : Config) (n : Nat), c.Wf →
    ∃ t, runSteps n ({ State.reset with config := c }.withTicks n) = .next t ∧
      t.outputs = List.replicate n (.pwm 512#16) ∧ t.regs.envState = 0#3 ∧ t.regs.sampleOut = 0#16

/-- R221: in IDLE, with TICKs alone, the output settles: after 49151 TICKs at most, LP_PREV is 0 and the duty is
`PwmMap(0, PWM_MAX, PWM_CENTER)`, the smaller of the two, whatever the filter held. -/
def Obligations.IdleOutputSettles : Prop :=
  ∀ (s : State) (n : Nat), s.Inv → s.regs.envState = 0#3 → 49151 ≤ n →
    ∃ t, runSteps n (s.withTicks n) = .next t ∧ t.regs.lpPrev = 0#16 ∧ t.regs.sampleOut = 0#16 ∧
      t.regs.pwmDuty.toNat = min s.regs.pwmCenter.toNat s.regs.pwmMax.toNat

/-- R281: the profile registers do not reach a sounding note: two states that differ only in ATTACK_MS, DECAY_MS,
SUSTAIN_LVL and RELEASE_MS differ only there after the same TICK, and after the same NOTE_OFF. -/
def Obligations.ProfileIsLatched : Prop :=
  ∀ (s t : State) (a d r : BitVec 16) (lvl : BitVec 10) (i : Instr), i = .tick ∨ i = .noteOff → exec i s = .next t →
    exec i { s with regs := { s.regs with attackMs := a, decayMs := d, sustainLvl := lvl, releaseMs := r } } =
      .next { t with regs := { t.regs with attackMs := a, decayMs := d, sustainLvl := lvl, releaseMs := r } }

/-- R108: every entry of the sine ROM is `32767 * sin(2π i / 256)` rounded to the nearest integer, and none is within
10^−6 of a tie. -/
def Obligations.SineRomIsRoundedSine : Prop :=
  ∀ i : Nat, i < 256 →
    |(sineRom (BitVec.ofNat 8 i) : ℝ) - 32767 * Real.sin (2 * Real.pi * i / 256)| < 1 / 2 - 1 / 10 ^ 6
end

