-- ==== Sys2Proof/Laws/Decode.lean ====
section
/-! SUPPORT. The small lemmas of the decoder: bytes and words, the opcode map, and the three answers of `accept`. -/

namespace Sys2Proof

/-- R9: the value of a concatenation, with `x` in the high bits. -/
theorem toNat_append_add {m n : Nat} (x : BitVec m) (y : BitVec n) :
    (x ++ y).toNat = x.toNat * 2 ^ n + y.toNat := by
  rw [BitVec.toNat_append, ← Nat.shiftLeft_add_eq_or_of_lt y.isLt, Nat.shiftLeft_eq]

/-- R63: a word is what its four bytes carry. -/
@[simp] theorem wordOfBytes_bytesOfWord (w : Word) : wordOfBytes (bytesOfWord w) = some w := by
  simp only [wordOfBytes, bytesOfWord, Option.some.injEq]
  apply BitVec.eq_of_getLsbD_eq
  intro i hi
  simp only [BitVec.getLsbD_append, BitVec.getLsbD_extractLsb']
  split_ifs with h₁ h₂ h₃
  · simp [h₁]
  · simp only [h₂, decide_true, Bool.true_and]; congr 1; omega
  · simp only [h₃, decide_true, Bool.true_and]; congr 1; omega
  · have h₄ : i - 8 - 8 - 8 < 8 := by omega
    simp only [h₄, decide_true, Bool.true_and]; congr 1; omega

/-- R63: a transaction of a whole word is decoded as that word. -/
@[simp] theorem decodeBytes_bytesOfWord (w : Word) : decodeBytes (bytesOfWord w) = decodeWord w := by
  simp [decodeBytes]

/-- R63: four bytes are one word, and no other number of bytes is. -/
theorem wordOfBytes_isSome_iff (bs : List Byte) : (wordOfBytes bs).isSome ↔ bs.length = 4 := by
  unfold wordOfBytes
  split
  · simp
  · rename_i h
    simp only [Option.isSome_none, Bool.false_eq_true, false_iff]
    intro hl
    obtain ⟨a, b, c, d, rfl⟩ : ∃ a b c d, bs = [a, b, c, d] := by
      match bs, hl with
      | [a, b, c, d], _ => exact ⟨a, b, c, d, rfl⟩
    exact h a b c d rfl

/-- R83: the rows' opcodes differ. -/
theorem Opcode.code_injective {o o' : Opcode} (h : o.code = o'.code) : o = o' := by
  cases o <;> cases o' <;> first | rfl | exact absurd h (by decide)

/-- R83: a row is found by its opcode. -/
@[simp] theorem Opcode.ofCode?_code (o : Opcode) : Opcode.ofCode? o.code = some o := by
  cases o <;> decide

/-- R83: a row found by an opcode has it. -/
theorem Opcode.ofCode?_eq_some_iff {c : BitVec 8} {o : Opcode} : Opcode.ofCode? c = some o ↔ o.code = c := by
  constructor
  · intro h
    have := List.find?_some h
    simpa using this
  · rintro rfl; exact Opcode.ofCode?_code o

/-- R81: no row of the command port has the opcode of TICK. -/
theorem Opcode.code_ne_tickOp (o : Opcode) : o.code ≠ tickOp := by
  cases o <;> decide

/-- R216: a word is accepted for a row exactly when it has the row's opcode and every reserved bit is 0. -/
theorem accept_eq_ok_iff {w : Word} {o : Opcode} :
    accept w = .ok o ↔ opField w = o.code ∧ w &&& o.mask = o.matchWord := by
  unfold accept
  constructor
  · intro h
    split at h
    · cases h
    · split at h
      · cases h
      · rename_i o' ho
        split at h
        · cases h; exact ⟨(Opcode.ofCode?_eq_some_iff.1 ho).symm, by assumption⟩
        · cases h
  · rintro ⟨h₁, h₂⟩
    rw [if_neg (by rw [h₁]; exact Opcode.code_ne_tickOp o), h₁, Opcode.ofCode?_code]
    simp [h₂]

/-- R216: a word that the decoder reads as an instruction was accepted for the instruction's row. -/
theorem decodeWord_eq_instr_iff {w : Word} {i : Instr} :
    decodeWord w = .instr i ↔ ∃ o, accept w = .ok o ∧ o.operands w = i := by
  unfold decodeWord
  split
  · rename_i o ho; simp [ho]
  · rename_i c hc; simp [hc]

/-- R83: the operand checks of the meanings are the range checks of the opcode table. -/
theorem operand_checks_agree :
    (∀ v, Machine.freqInRange v ↔ (Instr.setFreq v).WellFormed) ∧
      (∀ v, Machine.waveInRange v ↔ (Instr.setWave v).WellFormed) ∧
      (∀ v, Machine.sustainInRange v ↔ (Instr.setSustain v).WellFormed) ∧
      (∀ a, Machine.addressInRange a ↔ (Instr.read a).WellFormed) :=
  ⟨fun _ => decide_eq_true_iff.symm, fun _ => decide_eq_true_iff.symm, fun _ => decide_eq_true_iff.symm,
    fun _ => decide_eq_true_iff.symm⟩

end Sys2Proof
end

