-- ==== Sys2Proof/Laws/State.lean ====
section
/-! SUPPORT. One lemma per field per update of `State`, so that no later proof unfolds an update. -/

namespace Sys2Proof.Machine

@[simp] theorem State.withRegs_regs (s : State) (r : Regs) : (s.withRegs r).regs = r := rfl
@[simp] theorem State.withRegs_config (s : State) (r : Regs) : (s.withRegs r).config = s.config := rfl
@[simp] theorem State.withRegs_pending (s : State) (r : Regs) : (s.withRegs r).pending = s.pending := rfl
@[simp] theorem State.withRegs_outputs (s : State) (r : Regs) : (s.withRegs r).outputs = s.outputs := rfl

@[simp] theorem State.withPending_regs (s : State) (p : List Event) : (s.withPending p).regs = s.regs := rfl
@[simp] theorem State.withPending_config (s : State) (p : List Event) : (s.withPending p).config = s.config := rfl
@[simp] theorem State.withPending_pending (s : State) (p : List Event) : (s.withPending p).pending = p := rfl
@[simp] theorem State.withPending_outputs (s : State) (p : List Event) : (s.withPending p).outputs = s.outputs := rfl

@[simp] theorem State.emit_regs (s : State) (o : Output) : (s.emit o).regs = s.regs := rfl
@[simp] theorem State.emit_config (s : State) (o : Output) : (s.emit o).config = s.config := rfl
@[simp] theorem State.emit_pending (s : State) (o : Output) : (s.emit o).pending = s.pending := rfl
@[simp] theorem State.emit_outputs (s : State) (o : Output) : (s.emit o).outputs = s.outputs ++ [o] := rfl

@[simp] theorem resetRegs_regs (s : State) : (resetRegs s).regs = Regs.reset := rfl
@[simp] theorem resetRegs_config (s : State) : (resetRegs s).config = s.config := rfl
@[simp] theorem resetRegs_pending (s : State) : (resetRegs s).pending = s.pending := rfl
@[simp] theorem resetRegs_outputs (s : State) : (resetRegs s).outputs = s.outputs := rfl

@[simp] theorem State.withRegs_self (s : State) : s.withRegs s.regs = s := rfl
@[simp] theorem State.withRegs_withRegs (s : State) (r q : Regs) : (s.withRegs r).withRegs q = s.withRegs q := rfl

/-- Two states are equal when their four fields are. -/
theorem State.ext_fields {s t : State} (hr : s.regs = t.regs) (hc : s.config = t.config)
    (hp : s.pending = t.pending) (ho : s.outputs = t.outputs) : s = t := by
  cases s; cases t; simp_all

end Sys2Proof.Machine
end

