-- ==== Sys2Proof/Laws/Ops.lean ====
section
/-! SUPPORT. One lemma per shared operation that says what it can do; the proofs cite these instead of unfolding. -/

namespace Sys2Proof.Machine

open Sys2Proof

/-! ### Arithmetic -/

/-- R11: `fdiv` is the largest quotient. -/
theorem fdiv_spec {a b : Int} (hb : 0 < b) : fdiv a b * b ≤ a ∧ a < (fdiv a b + 1) * b := by
  constructor
  · exact Int.ediv_mul_le a (by omega)
  · exact Int.lt_ediv_add_one_mul_self a hb

/-- R11: `tdiv` by a positive divisor is `sign(a) * fdiv(|a|, b)`. -/
theorem tdiv_spec {a b : Int} (hb : 0 < b) : tdiv a b = a.sign * fdiv a.natAbs b := by
  obtain ⟨n, rfl⟩ : ∃ n : Nat, b = n := ⟨b.toNat, by omega⟩
  unfold tdiv fdiv
  rcases lt_trichotomy a 0 with h | h | h
  · obtain ⟨m, rfl⟩ : ∃ m : Nat, a = -(m : Int) := ⟨a.natAbs, by omega⟩
    have hs : (-(m : Int)).sign = -1 := Int.sign_eq_neg_one_of_neg h
    rw [hs, Int.neg_tdiv, Int.natAbs_neg, Int.natAbs_natCast, Int.tdiv_eq_ediv_of_nonneg (by omega)]
    ring
  · subst h; simp
  · have hs : a.sign = 1 := Int.sign_eq_one_of_pos h
    rw [hs, Int.natAbs_of_nonneg h.le, Int.tdiv_eq_ediv_of_nonneg h.le, one_mul]

/-- R11: `clamp` stays within its bounds. -/
theorem clamp_bounds (v : Int) {lo hi : Int} (h : lo ≤ hi) : lo ≤ clamp v lo hi ∧ clamp v lo hi ≤ hi := by
  unfold clamp; omega

/-- R11: `clamp` keeps a value that is within the bounds. -/
theorem clamp_of_mem {v lo hi : Int} (h₁ : lo ≤ v) (h₂ : v ≤ hi) : clamp v lo hi = v := by
  unfold clamp; omega

/-- R11: a saturated value is a 16-bit sample. -/
theorem sat16_bounds (v : Int) : -32768 ≤ sat16 v ∧ sat16 v ≤ 32767 := by
  unfold sat16 Config.satMin Config.satMax; exact clamp_bounds v (by decide)

/-- R10: a value in the sample range is kept by a signed 16-bit register. -/
theorem toInt_ofInt_sample {v : Int} (h₁ : -32768 ≤ v) (h₂ : v ≤ 32767) : (BitVec.ofInt 16 v).toInt = v := by
  rw [BitVec.toInt_ofInt]; exact Int.bmod_eq_of_le (by norm_num; omega) (by norm_num; omega)

/-! ### The error record -/

/-- R242: an empty record is filled. -/
theorem recordError_of_clear {r : Regs} (h : r.err = 0#1) (c : CmdError) (w : Word) :
    recordError c w r = { r with err := 1#1, errCode := errorCode c, errWord := w } := by
  simp [recordError, h]

/-- R242: a filled record stays. -/
theorem recordError_of_set {r : Regs} (h : r.err = 1#1) (c : CmdError) (w : Word) : recordError c w r = r := by
  cases r; simp_all [recordError]

@[simp] theorem recordError_err (c : CmdError) (w : Word) (r : Regs) : (recordError c w r).err = 1#1 := rfl

/-- R242: a rejection writes no register but the three of the record. -/
theorem recordError_frame (c : CmdError) (w : Word) (r : Regs) :
    recordError c w r = { r with err := (recordError c w r).err, errCode := (recordError c w r).errCode,
                                  errWord := (recordError c w r).errWord } := rfl

/-- R216, R242: what a rejection does to each part of the state. -/
theorem rejectCommand_spec (c : CmdError) (w : Word) (s : State) :
    (rejectCommand c w s).regs = recordError c w s.regs ∧ (rejectCommand c w s).config = s.config ∧
      (rejectCommand c w s).pending = s.pending ∧
      (rejectCommand c w s).outputs =
        s.outputs ++ (if opField w = 0x20#8 then [.readData 0#32] else []) := by
  have hc : Opcode.read.code = 0x20#8 := rfl
  unfold rejectCommand
  simp only [hc]
  split <;> simp

@[simp] theorem rejectCommand_regs (c : CmdError) (w : Word) (s : State) :
    (rejectCommand c w s).regs = recordError c w s.regs := (rejectCommand_spec c w s).1
@[simp] theorem rejectCommand_config (c : CmdError) (w : Word) (s : State) :
    (rejectCommand c w s).config = s.config := (rejectCommand_spec c w s).2.1
@[simp] theorem rejectCommand_pending (c : CmdError) (w : Word) (s : State) :
    (rejectCommand c w s).pending = s.pending := (rejectCommand_spec c w s).2.2.1

/-! ### Reading -/

/-- R61: the read map has 27 entries. -/
@[simp] theorem readMap_length (r : Regs) : (readMap r).length = 27 := rfl

/-- R218: an address has a value exactly when it is mapped. -/
theorem readValue_isSome_iff (a : BitVec 5) (r : Regs) : (readValue a r).isSome ↔ addressInRange a := by
  unfold readValue addressInRange
  simp only [Option.isSome_iff_exists, List.getElem?_eq_some_iff, readMap_length]
  constructor
  · rintro ⟨_, h, -⟩; exact Nat.le_of_lt_succ h
  · intro h; exact ⟨_, Nat.lt_succ_of_le h, rfl⟩

/-! ### The units of TICK -/

/-- R106: a selector has a waveform exactly when it is 0 to 4. -/
theorem wave_isSome_iff (sel : BitVec 3) (idx : BitVec 8) (l : BitVec 16) :
    (wave sel idx l).isSome ↔ sel.toNat ≤ 4 := by
  unfold wave; split <;> simp_all
  omega

/-- R137: what `EnvProcess` does, by the state it finds. -/
theorem envProcess_spec {r : Regs} {o : EnvStep} (h : envProcess r = some o) :
    (r.envState = envIdle ∧ o = envTickIdle (elapsedNext r.envElapsed)) ∨
      (r.envState = envAttack ∧ o = envTickAttack (elapsedNext r.envElapsed) r) ∨
      (r.envState = envDecay ∧ o = envTickDecay (elapsedNext r.envElapsed) r) ∨
      (r.envState = envSustain ∧ o = envTickSustain (elapsedNext r.envElapsed) r) ∨
      (r.envState = envRelease ∧ o = envTickRelease (elapsedNext r.envElapsed) r) := by
  unfold envProcess at h
  have key : ∀ n : Nat, n < 8 → r.envState.toNat = n → r.envState = BitVec.ofNat 3 n := by
    intro n hn hh; apply BitVec.eq_of_toNat_eq; simp [hh]; omega
  split at h <;> rename_i hs <;> first | (cases h; simp [key _ (by decide) hs]) | cases h

/-- R137: `EnvProcess` has a case for the states 0 to 4. -/
theorem envProcess_isSome_iff (r : Regs) : (envProcess r).isSome ↔ r.envState.toNat ≤ 4 := by
  unfold envProcess; split <;> simp_all
  omega

/-- R220: everything TICK can answer with a next state. -/
theorem execTick_next {s t : State} (h : execTick s = .next t) :
    ∃ raw env, rawSample s.regs = some raw ∧ envProcess s.regs = some env ∧
      t = (s.withRegs (tickRegs raw env s.regs)).emit (.pwm (tickRegs raw env s.regs).pwmDuty) := by
  unfold execTick at h
  split at h
  · cases h
  · rename_i raw hraw
    split at h
    · cases h
    · rename_i env henv
      cases h
      exact ⟨raw, env, hraw, henv, rfl⟩

/-- R220: TICK on its raw sample and its envelope step. -/
theorem execTick_of {s : State} {raw : Int} {env : EnvStep} (h₁ : rawSample s.regs = some raw)
    (h₂ : envProcess s.regs = some env) :
    execTick s = .next ((s.withRegs (tickRegs raw env s.regs)).emit (.pwm (tickRegs raw env s.regs).pwmDuty)) := by
  simp only [execTick, h₁, h₂]

/-- R106, R137: TICK answers a next state exactly when the two selectors have a meaning. -/
theorem execTick_completes_iff (s : State) :
    (∃ t, execTick s = .next t) ↔ s.regs.waveSel.toNat ≤ 4 ∧ s.regs.envState.toNat ≤ 4 := by
  have hw : (rawSample s.regs).isSome ↔ s.regs.waveSel.toNat ≤ 4 := wave_isSome_iff _ _ _
  have he := envProcess_isSome_iff s.regs
  constructor
  · rintro ⟨t, ht⟩
    obtain ⟨raw, env, h₁, h₂, -⟩ := execTick_next ht
    exact ⟨hw.1 (by rw [h₁]; rfl), he.1 (by rw [h₂]; rfl)⟩
  · rintro ⟨h₁, h₂⟩
    obtain ⟨raw, hraw⟩ := Option.isSome_iff_exists.1 (hw.2 h₁)
    obtain ⟨env, henv⟩ := Option.isSome_iff_exists.1 (he.2 h₂)
    exact ⟨_, execTick_of hraw henv⟩

end Sys2Proof.Machine
end

