-- ==== Sys2Proof/Laws/PerInstr.lean ====
section
/-! SUPPORT. Families of lemmas with one lemma per constructor of `Instr`. -/

namespace Sys2Proof.Laws

open Sys2Proof

/-- R81, R83: an instruction's opcode. -/
def Spelling.opcode : Instr → BitVec 8
  | .nop => 0x00#8
  | .setFreq _ => 0x01#8
  | .setWave _ => 0x02#8
  | .setAttack _ => 0x03#8
  | .setDecay _ => 0x04#8
  | .setSustain _ => 0x05#8
  | .setRelease _ => 0x06#8
  | .setGain _ => 0x07#8
  | .setThresh _ _ => 0x08#8
  | .setLpShift _ => 0x09#8
  | .setPwmMax _ => 0x0A#8
  | .setPwmCenter _ => 0x0B#8
  | .noteOn _ => 0x10#8
  | .noteOff => 0x11#8
  | .filterReset => 0x12#8
  | .read _ => 0x20#8
  | .tick => 0x80#8

/-- R80: the OP field of an instruction's word is its opcode of R83. -/
def Spelling.Statement (i : Instr) : Prop := opField (encode i) = Spelling.opcode i

/-- The top field of a word whose first part is `c`. -/
theorem opField_append (c : BitVec 8) (a : BitVec 24) : opField (c ++ a : BitVec (8 + 24)) = c := by
  unfold opField
  apply BitVec.eq_of_getLsbD_eq
  intro i hi
  simp only [BitVec.getLsbD_extractLsb', BitVec.getLsbD_append, hi, decide_true, Bool.true_and]
  rw [if_neg (by omega)]; congr 1; omega

/-- The same for a word written in three parts. -/
theorem opField_append_three {m n : Nat} (h : m + n = 24) (c : BitVec 8) (z : BitVec m) (a : BitVec n) :
    opField ((c ++ z ++ a : BitVec (8 + m + n)).cast (by omega)) = c := by
  unfold opField
  apply BitVec.eq_of_getLsbD_eq
  intro i hi
  simp only [BitVec.getLsbD_extractLsb', BitVec.getLsbD_cast, BitVec.getLsbD_append, hi, decide_true, Bool.true_and]
  rw [if_neg (by omega), if_neg (by omega)]; congr 1; omega

theorem Spelling.nop : Spelling.Statement .nop := by unfold Spelling.Statement; decide
theorem Spelling.setFreq (v : BitVec 24) : Spelling.Statement (.setFreq v) := opField_append _ v
theorem Spelling.setWave (v : BitVec 3) : Spelling.Statement (.setWave v) :=
  opField_append_three (by decide) 0x02#8 0#21 v
theorem Spelling.setAttack (v : BitVec 16) : Spelling.Statement (.setAttack v) :=
  opField_append_three (by decide) 0x03#8 0#8 v
theorem Spelling.setDecay (v : BitVec 16) : Spelling.Statement (.setDecay v) :=
  opField_append_three (by decide) 0x04#8 0#8 v
theorem Spelling.setSustain (v : BitVec 10) : Spelling.Statement (.setSustain v) :=
  opField_append_three (by decide) 0x05#8 0#14 v
theorem Spelling.setRelease (v : BitVec 16) : Spelling.Statement (.setRelease v) :=
  opField_append_three (by decide) 0x06#8 0#8 v
theorem Spelling.setGain (v : BitVec 8) : Spelling.Statement (.setGain v) :=
  opField_append_three (by decide) 0x07#8 0#16 v
theorem Spelling.setThresh (sym : BitVec 1) (v : BitVec 15) : Spelling.Statement (.setThresh sym v) := by
  unfold Spelling.Statement opField
  apply BitVec.eq_of_getLsbD_eq
  intro i hi
  simp only [encode, Spelling.opcode, BitVec.getLsbD_extractLsb', BitVec.getLsbD_append, hi, decide_true, Bool.true_and]
  rw [if_neg (by omega), if_neg (by omega), if_neg (by omega)]; congr 1; omega
theorem Spelling.setLpShift (v : BitVec 4) : Spelling.Statement (.setLpShift v) :=
  opField_append_three (by decide) 0x09#8 0#20 v
theorem Spelling.setPwmMax (v : BitVec 16) : Spelling.Statement (.setPwmMax v) :=
  opField_append_three (by decide) 0x0A#8 0#8 v
theorem Spelling.setPwmCenter (v : BitVec 16) : Spelling.Statement (.setPwmCenter v) :=
  opField_append_three (by decide) 0x0B#8 0#8 v
theorem Spelling.noteOn (fr : BitVec 1) : Spelling.Statement (.noteOn fr) :=
  opField_append_three (by decide) 0x10#8 0#23 fr
theorem Spelling.noteOff : Spelling.Statement .noteOff := by unfold Spelling.Statement; decide
theorem Spelling.filterReset : Spelling.Statement .filterReset := by unfold Spelling.Statement; decide
theorem Spelling.read (a : BitVec 5) : Spelling.Statement (.read a) :=
  opField_append_three (by decide) 0x20#8 0#19 a
theorem Spelling.tick : Spelling.Statement .tick := by unfold Spelling.Statement; decide

end Sys2Proof.Laws
end

