-- ==== Sys2Proof/Laws/Step.lean ====
section
/-! SUPPORT. What one step can do, said once. -/

namespace Sys2Proof.Machine

open Sys2Proof

/-- Everything a step can do when it answers a next state. -/
theorem step_cases {s t : State} (h : step s = .next t) :
    s.config.Wf ∧
      ((∃ rest, s.pending = .reset :: rest ∧ t = resetRegs (s.withPending rest)) ∨
        (s.regs.Wf ∧
          ((s.pending = [] ∧ t = s) ∨
            (∃ i u, nextAction s = .run i u ∧ exec i u = .next t) ∨
            (∃ c w u, nextAction s = .reject c w u ∧ t = rejectCommand c w u)))) := by
  unfold step at h
  split at h
  · rename_i hc
    refine ⟨hc, ?_⟩
    split at h
    · rename_i u hu
      left
      unfold nextAction at hu
      split at hu
      · cases hu
      · cases hu; cases h; exact ⟨_, by assumption, rfl⟩
      · cases hu
      · cases hu
      · unfold commandAction at hu; split at hu <;> cases hu
    · rename_i hu
      right
      split at h
      · cases h
        refine ⟨by assumption, .inl ⟨?_, rfl⟩⟩
        unfold nextAction at hu
        split at hu
        · assumption
        · cases hu
        · cases hu
        · cases hu
        · unfold commandAction at hu; split at hu <;> cases hu
      · cases h
    · rename_i i u hu
      right
      split at h
      · exact ⟨by assumption, .inr (.inl ⟨i, u, hu, h⟩)⟩
      · cases h
    · rename_i c w u hu
      right
      split at h
      · cases h; exact ⟨by assumption, .inr (.inr ⟨c, w, u, hu, rfl⟩)⟩
      · cases h
    · cases h
  · cases h

/-- An action that runs or rejects does so on the state with only its trace changed. -/
theorem nextAction_state {s u : State} {i : Instr} (h : nextAction s = .run i u) :
    ∃ p, u = s.withPending p := by
  unfold nextAction at h
  split at h
  · cases h
  · cases h
  · cases h; exact ⟨_, rfl⟩
  · cases h; exact ⟨_, rfl⟩
  · unfold commandAction at h; split at h <;> cases h; exact ⟨_, rfl⟩

/-- A rejection comes from a transaction whose word the decoder rejects. -/
theorem nextAction_reject {s u : State} {c : CmdError} {w : Word} (h : nextAction s = .reject c w u) :
    ∃ bs rest, s.pending = .command bs :: rest ∧ decodeBytes bs = .rejected c w ∧ u = s.withPending rest := by
  unfold nextAction at h
  split at h
  · cases h
  · cases h
  · cases h
  · cases h
  · rename_i bs rest hp
    unfold commandAction at h
    split at h <;> cases h
    exact ⟨bs, rest, hp, by assumption, rfl⟩

/-- From a state with the invariant a step runs the instruction its input asks for. -/
theorem step_of_run {s u : State} {i : Instr} (hI : s.Inv) (h : nextAction s = .run i u) : step s = exec i u := by
  unfold step
  rw [if_pos hI.1, h]
  exact if_pos hI.2

/-- From a state with the invariant a step rejects the word that its input's decoder rejects. -/
theorem step_of_reject {s u : State} {c : CmdError} {w : Word} (hI : s.Inv) (h : nextAction s = .reject c w u) :
    step s = .next (rejectCommand c w u) := by
  unfold step
  rw [if_pos hI.1, h]
  exact if_pos hI.2

/-- R270: the reset input, whatever the registers. -/
theorem step_of_reset {s u : State} (hc : s.config.Wf) (h : nextAction s = .reset u) : step s = .next (resetRegs u) := by
  unfold step
  rw [if_pos hc, h]

/-- R252: a step with no input. -/
theorem step_of_idle {s : State} (hI : s.Inv) (h : nextAction s = .idle) : step s = .next s := by
  unfold step
  rw [if_pos hI.1, h]
  exact if_pos hI.2

/-- The next action of a trace of pulses. -/
@[simp] theorem nextAction_withTicks_succ (s : State) (n : Nat) :
    nextAction (s.withTicks (n + 1)) = .run .tick (s.withTicks n) := rfl

/-- A run of no steps. -/
@[simp] theorem runSteps_zero (s : State) : runSteps 0 s = .next s := rfl

/-- A run goes on from the state after its first step. -/
theorem runSteps_succ_of {s t : State} (n : Nat) (h : step s = .next t) : runSteps (n + 1) s = runSteps n t := by
  simp only [runSteps, h]

/-- The first step of a run that completes. -/
theorem runSteps_succ_next {s u : State} {n : Nat} (h : runSteps (n + 1) s = .next u) :
    ∃ t, step s = .next t ∧ runSteps n t = .next u := by
  unfold runSteps at h
  split at h
  · rename_i t ht; exact ⟨t, ht, h⟩
  · cases h
  · cases h

/-- A run of a core goes on from the state after its first step. -/
theorem core_run_succ (M : Host.Core) (n : Nat) (s : M.State) :
    M.run (n + 1) s = match M.step s with
      | .next t => M.run n t
      | .fault r => .fault r
      | .refused r => .refused r := rfl

/-- The runs are the host's runs of the core. -/
theorem runSteps_eq_core_run (n : Nat) : ∀ s : State, Host.Core.run Sys2Proof.core n s = runSteps n s := by
  induction n with
  | zero => intro s; rfl
  | succ n ih =>
    intro s
    refine (core_run_succ Sys2Proof.core n s).trans ?_
    rcases h : step s with t | r | r
    · rw [runSteps_succ_of n h, show Sys2Proof.core.step s = .next t from h]; exact ih t
    · rw [show Sys2Proof.core.step s = .fault r from h]; simp only [runSteps, h]; rfl
    · rw [show Sys2Proof.core.step s = .refused r from h]; simp only [runSteps, h]; rfl

end Sys2Proof.Machine
end

