-- ==== Sys2Proof/Tests/Slice0.lean ====
section
/-! SUPPORT. Tests of the model, each on small states and one step, and the witnesses of the statements' hypotheses. The
expected values are those of spec/95_test_vectors.md (vectors V-…) and of the examples in the rules; none was taken from
the model. -/

namespace Sys2Proof.Tests

open Sys2Proof Sys2Proof.Machine

/-! ### Helpers -/

/-- The state after a result, if there is one. -/
def after (x : Result) : Option State :=
  match x with
  | .next t => some t
  | .fault _ => none
  | .refused _ => none

/-- The reset machine with other registers and a trace. -/
def start (r : Regs) (p : List Event) : State := { State.reset with regs := r, pending := p }

/-- The registers after one instruction from given registers. -/
def regsAfter (i : Instr) (r : Regs) : Option Regs := (after (exec i (start r []))).map (·.regs)

/-- What one instruction shows. -/
def shownBy (i : Instr) (r : Regs) : Option (List Output) := (after (exec i (start r []))).map (·.outputs)

/-- STATUS, ERR_WORD and what is shown after one command word from reset. -/
def errorAfter (w : Word) : Option (Word × Word × List Output) :=
  (after (step (start Regs.reset [Event.word w]))).map fun t => (statusWord t.regs, t.regs.errWord, t.outputs)

/-- Registers with a given envelope: its state, counter, amplitude, segment length (for each timed state) and levels. -/
def inEnvelope (st : BitVec 3) (elapsed : BitVec 32) (amp : BitVec 10) (ticks : BitVec 32) : Regs :=
  { Regs.reset with
    envState := st, envElapsed := elapsed, envAmp := amp, envATicks := ticks, envDTicks := ticks, envRTicks := ticks
    envSLvl := 700#10, envRelStart := 700#10 }

/-- The envelope registers after a TICK. -/
def envAfterTick (r : Regs) : Option (BitVec 3 × BitVec 10 × BitVec 32) :=
  (regsAfter .tick r).map fun t => (t.envState, t.envAmp, t.envElapsed)

/-! ### WellFormed: an ill-formed term for each check -/

theorem test_wellFormed_setFreq : (Instr.setFreq 0#24).wellFormed = false ∧ (Instr.setFreq 1#24).wellFormed = true := by
  decide
theorem test_wellFormed_setWave :
    (Instr.setWave 5#3).wellFormed = false ∧ (Instr.setWave 6#3).wellFormed = false ∧
      (Instr.setWave 7#3).wellFormed = false ∧ (Instr.setWave 4#3).wellFormed = true := by decide
theorem test_wellFormed_setSustain :
    (Instr.setSustain 1001#10).wellFormed = false ∧ (Instr.setSustain 1023#10).wellFormed = false ∧
      (Instr.setSustain 1000#10).wellFormed = true := by decide
theorem test_wellFormed_read :
    (Instr.read 0x1B#5).wellFormed = false ∧ (Instr.read 0x1F#5).wellFormed = false ∧
      (Instr.read 0x1A#5).wellFormed = true := by decide

/-! ### Decoding: words written out bit by bit from R82, R83 (V-ENC) -/

theorem test_decode_nop : decodeWord 0b00000000_000000000000000000000000#32 = .instr .nop := by decide
theorem test_decode_setFreq :
    decodeWord 0b00000001_000000000000000110111000#32 = .instr (.setFreq 440#24) ∧
      decodeWord 0x01FFFFFF#32 = .instr (.setFreq 16777215#24) := by decide
theorem test_decode_setWave : decodeWord 0b00000010_000000000000000000000_011#32 = .instr (.setWave 3#3) := by decide
theorem test_decode_setAttack : decodeWord 0b00000011_00000000_0000000000001010#32 = .instr (.setAttack 10#16) := by
  decide
theorem test_decode_setDecay : decodeWord 0b00000100_00000000_1111111111111111#32 = .instr (.setDecay 65535#16) := by
  decide
theorem test_decode_setSustain : decodeWord 0b00000101_00000000000000_1111101000#32 = .instr (.setSustain 1000#10) := by
  decide
theorem test_decode_setRelease : decodeWord 0b00000110_00000000_0000000011001000#32 = .instr (.setRelease 200#16) := by
  decide
theorem test_decode_setGain : decodeWord 0b00000111_0000000000000000_11111111#32 = .instr (.setGain 255#8) := by decide
theorem test_decode_setThresh :
    decodeWord 0b00001000_00000000_1_100000000000000#32 = .instr (.setThresh 1#1 16384#15) ∧
      decodeWord 0b00001000_00000000_0_111111111111111#32 = .instr (.setThresh 0#1 32767#15) := by decide
theorem test_decode_setLpShift : decodeWord 0b00001001_00000000000000000000_1111#32 = .instr (.setLpShift 15#4) := by
  decide
theorem test_decode_setPwmMax : decodeWord 0b00001010_00000000_0000011001000000#32 = .instr (.setPwmMax 1600#16) := by
  decide
theorem test_decode_setPwmCenter :
    decodeWord 0b00001011_00000000_0000001100100000#32 = .instr (.setPwmCenter 800#16) := by decide
theorem test_decode_noteOn :
    decodeWord 0b00010000_00000000000000000000000_0#32 = .instr (.noteOn 0#1) ∧
      decodeWord 0b00010000_00000000000000000000000_1#32 = .instr (.noteOn 1#1) := by decide
theorem test_decode_noteOff : decodeWord 0b00010001_000000000000000000000000#32 = .instr .noteOff := by decide
theorem test_decode_filterReset : decodeWord 0b00010010_000000000000000000000000#32 = .instr .filterReset := by decide
theorem test_decode_read : decodeWord 0b00100000_0000000000000000000_11010#32 = .instr (.read 0x1A#5) := by decide

/-- R81: the trace word of TICK is a TICK in a mixed trace and WRONG_PORT on the command port. -/
theorem test_decode_tick :
    decodeTrace [0x00#8, 0x00#8, 0x00#8, 0x80#8] = .instr .tick ∧
      decodeBytes [0x00#8, 0x00#8, 0x00#8, 0x80#8] = .rejected .wrongPort 0x80000000#32 := by decide

/-- R63, R64: the byte of bits 7:0 comes first, and three or five bytes are no word. -/
theorem test_decode_bytes :
    decodeBytes [0xB8#8, 0x01#8, 0x00#8, 0x01#8] = .instr (.setFreq 440#24) ∧
      decodeBytes [0xB8#8, 0x01#8, 0x00#8] = .notOneWord ∧ decodeBytes [0#8, 0#8, 0#8, 0#8, 0#8] = .notOneWord := by
  decide

/-- R84 to R86: the words at the edges of the classes. -/
theorem test_acceptance_edges :
    decodeWord 0x0B00FFFF#32 = .instr (.setPwmCenter 65535#16) ∧
      decodeWord 0x0B010000#32 = .rejected .reservedBits 0x0B010000#32 ∧
      decodeWord 0x0C000000#32 = .rejected .illegalOp 0x0C000000#32 ∧
      decodeWord 0x0FFFFFFF#32 = .rejected .illegalOp 0x0FFFFFFF#32 ∧
      decodeWord 0x13000000#32 = .rejected .illegalOp 0x13000000#32 ∧
      decodeWord 0x1F000000#32 = .rejected .illegalOp 0x1F000000#32 ∧
      decodeWord 0x2000001F#32 = .instr (.read 0x1F#5) ∧
      decodeWord 0x20000020#32 = .rejected .reservedBits 0x20000020#32 ∧
      decodeWord 0x21000000#32 = .rejected .illegalOp 0x21000000#32 ∧
      decodeWord 0x7F000000#32 = .rejected .illegalOp 0x7F000000#32 ∧
      decodeWord 0x81000000#32 = .rejected .illegalOp 0x81000000#32 := by decide

/-- The host's two readings of a table row's word. -/
theorem test_decodeTableWord :
    decodeTableWord 32 0x0800C000 = some (.setThresh 1#1 16384#15) ∧ decodeTableWord 32 0x80000000 = some .tick ∧
      decodeTableWord 32 0x00000001 = none := by decide
theorem test_withFetchWord :
    ((after (step (State.reset.withFetchWord 32 0x0A000640))).map fun t => t.regs.pwmMax) = some 1600#16 ∧
      ((after (step (State.reset.withFetchWord 32 0x80000000))).map fun t => t.outputs) = some [.pwm 512#16] := by
  decide

/-! ### Commands -/

theorem test_nop : regsAfter .nop Regs.reset = some Regs.reset := by decide

/-- V-OSC: PhaseInc at SR = 20000, and the clamp from SR on. -/
theorem test_phaseInc :
    phaseInc 20000 1 = 214748 ∧ phaseInc 20000 440 = 94489280 ∧ phaseInc 20000 9999 = 2147268899 ∧
      phaseInc 20000 19999 = 4294752547 ∧ phaseInc 20000 20000 = 4294967295 ∧
      phaseInc 20000 16777215 = 4294967295 := by decide
/-- V-OSC-4: the accumulator is kept. -/
theorem test_setFreq :
    regsAfter (.setFreq 880#24) { Regs.reset with phaseAcc := 0x66666400#32 } =
      some { Regs.reset with phaseAcc := 0x66666400#32, freqHz := 880#24, phaseInc := 0x0B439581#32 } := by
  decide +kernel
theorem test_setWave : regsAfter (.setWave 1#3) Regs.reset = some { Regs.reset with waveSel := 1#3 } := by decide
theorem test_setAttack : regsAfter (.setAttack 0#16) Regs.reset = some { Regs.reset with attackMs := 0#16 } := by decide
theorem test_setDecay : regsAfter (.setDecay 65535#16) Regs.reset = some { Regs.reset with decayMs := 65535#16 } := by
  decide
theorem test_setSustain : regsAfter (.setSustain 1000#10) Regs.reset =
      some { Regs.reset with sustainLvl := 1000#10 } := by
  decide
theorem test_setRelease : regsAfter (.setRelease 5#16) Regs.reset = some { Regs.reset with releaseMs := 5#16 } := by
  decide
theorem test_setGain : regsAfter (.setGain 255#8) Regs.reset = some { Regs.reset with gain := 255#8 } := by decide
/-- V-READ-6. -/
theorem test_setThresh : regsAfter (.setThresh 1#1 16384#15) Regs.reset =
      some { Regs.reset with scCtrl := 0xC000#16 } := by
  decide
theorem test_setLpShift : regsAfter (.setLpShift 15#4) Regs.reset = some { Regs.reset with lpShift := 15#4 } := by
  decide
/-- V-PWM-1: PWM_DUTY stays at 512. -/
theorem test_setPwmMax : regsAfter (.setPwmMax 100#16) Regs.reset = some { Regs.reset with pwmMax := 100#16 } := by
  decide
theorem test_setPwmCenter : regsAfter (.setPwmCenter 800#16) Regs.reset =
      some { Regs.reset with pwmCenter := 800#16 } := by
  decide
/-- R135's example, with LP_PREV kept for FR = 0 and cleared for FR = 1 (V-FIL-2). -/
theorem test_noteOn :
    regsAfter (.noteOn 0#1) { Regs.reset with lpPrev := 7#16 } =
      some { Regs.reset with
        lpPrev := 7#16, envState := 1#3, envATicks := 200#32, envDTicks := 1000#32, envSLvl := 700#10
        envRTicks := 4000#32 } := by decide
theorem test_noteOn_filterReset :
    ((regsAfter (.noteOn 1#1) { Regs.reset with lpPrev := BitVec.ofInt 16 (-4995) }).map fun r => r.lpPrev) =
      some 0#16 := by
  decide
/-- R136's example. -/
theorem test_noteOff :
    regsAfter .noteOff { Regs.reset with envState := 3#3, envAmp := 700#10, envElapsed := 5#32 } =
      some { Regs.reset with envState := 4#3, envAmp := 700#10, envRelStart := 700#10 } := by decide
/-- V-ENV-11. -/
theorem test_noteOff_idle : regsAfter .noteOff Regs.reset = some Regs.reset := by decide
/-- V-FIL-1. -/
theorem test_filterReset : regsAfter .filterReset { Regs.reset with lpPrev := 10#16 } = some Regs.reset := by decide
/-- V-READ-1 to V-READ-5. -/
theorem test_read :
    shownBy (.read 0x05#5) Regs.reset = some [.readData 0x0000ACE1#32] ∧
      shownBy (.read 0x13#5) Regs.reset = some [.readData 0x00006000#32] ∧
      shownBy (.read 0x18#5) Regs.reset = some [.readData 0x00000200#32] ∧
      shownBy (.read 0x15#5) { Regs.reset with lpPrev := BitVec.ofInt 16 (-4995) } =
      some [.readData 0xFFFFEC7D#32] := by
  decide
theorem test_read_status :
    shownBy (.read 0x00#5) { Regs.reset with envState := 3#3, err := 1#1, errCode := 4#3 } =
      some [.readData 0x00000413#32] := by decide

/-! ### Command errors (V-ERR) -/

theorem test_error_codes :
    errorAfter 0xFF123456#32 = some (0x110#32, 0xFF123456#32, []) ∧
      errorAfter 0x80000001#32 = some (0x210#32, 0x80000001#32, []) ∧
      errorAfter 0x02000105#32 = some (0x310#32, 0x02000105#32, []) ∧
      errorAfter 0x050003E9#32 = some (0x410#32, 0x050003E9#32, []) := by decide
theorem test_error_reads :
    errorAfter 0x2000001B#32 = some (0x410#32, 0x2000001B#32, [.readData 0#32]) ∧
      errorAfter 0x2000003A#32 = some (0x310#32, 0x2000003A#32, [.readData 0#32]) := by decide
/-- P2, steps 1 and 4: the record is sticky, and FREQ_HZ and PHASE_INC stay. -/
theorem test_error_sticky :
    let r : Regs := { Regs.reset with err := 1#1, errCode := 1#3, errWord := 0x0C000000#32 }
    ((after (step (start r [Event.word 0x01000000#32]))).map fun t => t.regs) = some r := by decide

/-! ### The units of TICK -/

/-- V-OSC: the waveform table. -/
theorem test_waveforms :
    (wave 0#3 5#8 1#16, wave 1#3 127#8 1#16, wave 2#3 63#8 1#16, wave 3#3 63#8 1#16) =
        (some 4011, some 32767, some (-16577), some (-259)) ∧
      (wave 0#3 129#8 1#16, wave 1#3 128#8 1#16, wave 2#3 255#8 1#16, wave 3#3 129#8 1#16) =
        (some (-804), some (-32768), some 32767, some 32250) ∧
      wave 4#3 0#8 0xE270#16 = some (-7568) ∧ wave 5#3 0#8 1#16 = none := by decide
/-- R105's first states after the seed. -/
theorem test_lfsr :
    lfsrStep 0xACE1#16 = 0xE270#16 ∧ lfsrStep 0xE270#16 = 0x7138#16 ∧ lfsrStep 0x0E27#16 = 0xB313#16 ∧
      lfsrStep 0xED89#16 = 0xC2C4#16 := by decide
/-- V-OSC-1. -/
theorem test_phase_wraps : phaseAdvance 0xFFFFFFFF#32 1#32 = 0#32 ∧ phaseIndex 0x05A1CAC0#32 = 5#8 := by decide
/-- V-FIL. -/
theorem test_scale : scale 4011 5 = 20 ∧ scale (-199) 5 = 0 ∧ scale 32767 999 = 32734 ∧ scale (-32768) 1 = -32 := by
  decide
theorem test_lowPass :
    lowPass 1 0 3 = 2 ∧ lowPass 1 0 (-3) = -2 ∧ lowPass 2 100 0 = 75 ∧ lowPass 4 0 1000 = 63 ∧
      lowPass 15 32767 (-32768) = 32765 ∧ lowPass 3 5 5 = 5 := by decide
theorem test_gain :
    compQ7 62 = 128 ∧ compQ7 63 = 129 ∧ compQ7 3999 = 191 ∧ compQ7 16777215 = 192 ∧ applyGain 1000 128 2000 = 1250 ∧
      applyGain (-1) 64 0 = -1 ∧ applyGain (-20000) 128 440 = -21094 ∧ applyGain (-32768) 255 4000 = -32768 := by decide
theorem test_softClip :
    softClip 24578 24576 0#1 = 24577 ∧ softClip (-32768) 24576 0#1 = -32768 ∧ softClip (-32768) 24576 1#1 = -28672 ∧
      softClip (-1) 0 1#1 = 0 ∧ softClip (-32768) 32767 1#1 = -32767 := by decide
/-- V-PWM. -/
theorem test_pwmMap :
    pwmMap (-1) 1023 512 = 511 ∧ pwmMap (-16384) 1023 512 = 256 ∧ pwmMap 32767 1023 512 = 1023 ∧
      pwmMap 0 100 200 = 100 ∧
      pwmMap 32767 65535 32768 = 65534 := by decide
/-- V-ENV-4, V-ENV-5, V-ENV-7, V-ENV-8. -/
theorem test_envelope_rise :
    envAfterTick { inEnvelope 1#3 198#32 990#10 200#32 with envSLvl := 700#10 } = some (1#3, 995#10, 199#32) ∧
      envAfterTick (inEnvelope 1#3 199#32 995#10 200#32) = some (2#3, 1000#10, 0#32) ∧
      envAfterTick (inEnvelope 2#3 998#32 701#10 1000#32) = some (2#3, 701#10, 999#32) ∧
      envAfterTick (inEnvelope 2#3 999#32 701#10 1000#32) = some (3#3, 700#10, 0#32) := by decide
/-- The release of the reset profile, and V-ENV-15. -/
theorem test_envelope_fall :
    envAfterTick (inEnvelope 4#3 1999#32 351#10 4000#32) = some (4#3, 350#10, 2000#32) ∧
      envAfterTick (inEnvelope 4#3 3999#32 1#10 4000#32) = some (0#3, 0#10, 0#32) ∧
      envAfterTick (inEnvelope 3#3 0xFFFFFFFF#32 700#10 0#32) = some (3#3, 700#10, 0xFFFFFFFF#32) := by decide
/-- V-TICK-1, from the registers that `set_freq 440` and `note_on` leave. -/
theorem test_tick :
    regsAfter .tick
        { Regs.reset with
          freqHz := 440#24, phaseInc := 0x05A1CAC0#32, envState := 1#3, envATicks := 200#32, envDTicks := 1000#32
          envSLvl := 700#10, envRTicks := 4000#32 } =
      some
        { Regs.reset with
          freqHz := 440#24, phaseInc := 0x05A1CAC0#32, phaseAcc := 0x05A1CAC0#32, noiseLfsr := 0xE270#16,
          envState := 1#3
          envAmp := 5#10, envElapsed := 1#32, envATicks := 200#32, envDTicks := 1000#32, envSLvl := 700#10
          envRTicks := 4000#32, lpPrev := 10#16, sampleOut := 10#16, pwmDuty := 512#16 } := by decide
/-- P3, TICK 2: the gain saturates and the symmetric clip acts. -/
theorem test_tick_saturates :
    ((regsAfter .tick
        { Regs.reset with
          phaseAcc := 0x40000000#32, phaseInc := 0x40000000#32, freqHz := 5000#24, waveSel := 1#3, envState := 2#3
          envSLvl := 500#10, gain := 255#8, scCtrl := 0xC000#16, lpShift := 0#4, pwmMax := 1600#16
          pwmCenter := 800#16 }).map fun r => (r.lpPrev.toInt, r.sampleOut.toInt, r.pwmDuty)) =
      some (-16384, -24576, 200#16) := by decide

/-! ### The machine as a whole -/

/-- R66: of a pulse and a word in the same instant the TICK is first. -/
theorem test_tick_first :
    ((after (step (start Regs.reset [.tickAndCommand (bytesOfWord 0x07000001#32)]))).map fun t =>
      (t.regs.gain, t.outputs, t.pending)) = some (128#8, [.pwm 512#16], [Event.word 0x07000001#32]) := by decide
/-- R270. -/
theorem test_reset_input :
    ((after (step (start (inEnvelope 3#3 5#32 700#10 9#32) [.reset, .tickPulse]))).map fun t => (t.regs, t.pending)) =
      some (Regs.reset, [.tickPulse]) := by decide
/-- R89: the comment, the blanks and two statements. -/
theorem test_assemble :
    assemble "rd 0x1F\nset_thresh 1 , sym ; c" = some [Event.word 0x2000001F#32, Event.word 0x08008001#32] := by decide
theorem test_assemble_refuses :
    assemble "set_lpshift 16" = none ∧ assemble "set_wave sawtooth" = none ∧ assemble "tick 0" = none := by decide

/-! ### Witnesses: the hypotheses of the statements can be met, each clause at the edges of its range -/

theorem witness_DecodeOfEncode : Instr.nop ≠ .tick ∧ Instr.read 31#5 ≠ .tick := by decide
theorem witness_LegalSpellingIsUnique : decodeWord 0x01000000#32 = .instr (.setFreq 0#24) := by decide
theorem witness_NopIsTheOnlyNoOperation :
    ((1#32).toNat < 2 ^ 24 ∧ 1#32 ≠ 0#32) ∧ ((0x00FFFFFF#32).toNat < 2 ^ 24 ∧ 0x00FFFFFF#32 ≠ 0#32) := by decide
theorem witness_SetFreqResult :
    (1#24 ≠ 0#24 ∧ 1 ≤ State.reset.config.sampleRate) ∧
      (0xFFFFFF#24 ≠ 0#24 ∧ State.reset.config.sampleRate ≤ (0xFFFFFF#24).toNat) ∧
      (20000#24 ≠ 0#24 ∧ State.reset.config.sampleRate ≤ (20000#24).toNat) ∧
      (440#24 ≠ 0#24 ∧ State.reset.config.sampleRate = 20000) := by decide
theorem witness_NoteOnResult : State.reset.config.Wf ∧ ({ sampleRate := 2 ^ 24 - 1 } : Config).Wf := by decide
theorem witness_ReadResult : 0x1B ≤ (0x1B#5).toNat ∧ 0x1B ≤ (0x1F#5).toNat := by decide
theorem witness_TickPipeline : State.reset.Inv ∧ (start (inEnvelope 4#3 0xFFFFFFFF#32 1000#10 0#32) []).Inv := by decide
theorem witness_TickStopsOnIllegalSelectors :
    4 < (start { Regs.reset with waveSel := 5#3 } []).regs.waveSel.toNat ∧
      4 < (start { Regs.reset with waveSel := 7#3 } []).regs.waveSel.toNat ∧
      (let r := (start { Regs.reset with waveSel := 4#3, envState := 5#3 } []).regs;
        r.waveSel.toNat ≤ 4 ∧ 4 < r.envState.toNat) ∧
      (let r := (start { Regs.reset with waveSel := 4#3, envState := 4#3 } []).regs;
        r.waveSel.toNat ≤ 4 ∧ r.envState.toNat ≤ 4) := by decide
theorem witness_PhaseIncrementLaws :
    (1 ≤ 1 ∧ 1 < 2 ^ 24) ∧ (1 ≤ 65536 ∧ 65536 < 2 ^ 24) ∧ (1 ≤ 2 ^ 24 - 1 ∧ 2 ^ 24 - 1 < 2 ^ 24) ∧
      (1 ≤ 20000 - 2 ∧ 20000 - 2 + 1 < 20000) := by decide
theorem witness_NoiseVisitsEveryNonzeroState : 0xACE1#16 ≠ 0#16 ∧ 1#16 ≠ 0#16 := by decide
theorem witness_SineRomSymmetry : (1 ≤ 1 ∧ 1 ≤ 127) ∧ (1 ≤ 127 ∧ 127 ≤ 127) := by decide
theorem witness_SineRomIsRoundedSine : 0 < 256 ∧ 255 < 256 := by decide
theorem witness_AlgebraicWaveforms : (0#8).toNat < 128 ∧ (127#8).toNat < 128 := by decide
theorem witness_WaveformRange :
    (wave 0#3 64#8 1#16).isSome ∧ (wave 1#3 128#8 1#16).isSome ∧ (wave 2#3 0#8 1#16).isSome ∧
      (wave 3#3 255#8 1#16).isSome ∧ (wave 4#3 0#8 0x8000#16 = some (-32768) ∧ 0x8000#16 ≠ 0#16) := by decide
theorem witness_MillisecondsToTicks :
    ({ sampleRate := 1 } : Config).Wf ∧ ({ sampleRate := 2 ^ 24 - 1 } : Config).Wf ∧ 65535 ≤ 65535 ∧
      999 * ({ sampleRate := 1 } : Config).sampleRate < 1000 := by decide

/-- A state with the invariant from which TICK answers a next state. -/
def ticks (r : Regs) : Bool := decide (start r []).Inv && (after (exec .tick (start r []))).isSome

theorem witness_EnvelopeTickResult :
    ticks (inEnvelope 0#3 0xFFFFFFFF#32 0#10 0#32) ∧ ticks (inEnvelope 1#3 0#32 0#10 1#32) ∧
      ticks (inEnvelope 1#3 0#32 0#10 2#32) ∧ ticks (inEnvelope 2#3 0#32 1000#10 1#32) ∧
      ticks (inEnvelope 2#3 0#32 1000#10 2#32) ∧ ticks (inEnvelope 3#3 0#32 700#10 1#32) ∧
      ticks (inEnvelope 4#3 0#32 700#10 1#32) ∧ ticks (inEnvelope 4#3 0#32 700#10 2#32) := by decide
theorem witness_PhaseAfterTicks : State.reset.Inv := by decide

/-- The envelope state of registers, after one TICK and after two. -/
def twoTicks (r : Regs) : Option (BitVec 3 × BitVec 3 × BitVec 3) :=
  (regsAfter .tick r).bind fun t => (regsAfter .tick t).map fun u => (r.envState, t.envState, u.envState)

theorem witness_RampsAreMonotone :
    (start (inEnvelope 1#3 0#32 0#10 2#32) []).Inv ∧ twoTicks (inEnvelope 1#3 0#32 0#10 2#32) = some (1#3, 1#3, 2#3) ∧
      twoTicks (inEnvelope 2#3 0#32 1000#10 2#32) = some (2#3, 2#3, 3#3) ∧
      twoTicks (inEnvelope 4#3 0#32 700#10 2#32) = some (4#3, 4#3, 0#3) ∧
      twoTicks (inEnvelope 3#3 0#32 700#10 2#32) = some (3#3, 3#3, 3#3) := by decide
theorem witness_LowPassConverges :
    ((-32768 : Int) ≠ 32767) ∧ ((0 : Int) - 0).natAbs ≤ ((32767 : Int) - (-32768)).natAbs := by decide
theorem witness_SoftClipLaws :
    (0 ≤ 32767 ∧ (-32768 : Int) ≤ -32768 ∧ (32767 : Int) ≤ 32767) ∧ ((24576 : Int) ≤ (24576 : Nat)) ∧
      (((24576 : Nat) : Int) < 24577) ∧ (((-24576 : Int).natAbs : Int) ≤ (24576 : Nat)) ∧
      ((24576 : Nat) < (-24577 : Int).natAbs) := by decide
theorem witness_PwmMapLaws : (0 ≤ 65535 ∧ 65535 ≤ 65535) ∧ ((-32768 : Int) ≤ 32767) := by decide
theorem witness_DutyWithinPwmMax : (after (exec .tick State.reset)).isSome := by decide
theorem witness_RejectedCommandRecords :
    (start Regs.reset []).Inv ∧ rejectionOf 0x0C000000#32 = some .illegalOp ∧
      rejectionOf 0x80000000#32 = some .wrongPort ∧
      rejectionOf 0x00000001#32 = some .reservedBits ∧ rejectionOf 0x2000001B#32 = some .range ∧
      (let s := start { Regs.reset with err := 1#1, errCode := 4#3, errWord := 0x01000000#32 } [.tickPulse];
        s.regs.err = 1#1 ∧ s.pending.head? ≠ some .reset ∧ (after (step s)).isSome) ∧
      (after (step (start Regs.reset [.reset]))).isSome := by decide
theorem witness_OnlyRangeCheckedCommandsRaise :
    (failsRangeCheck (.setFreq 0#24) ∧ (regsAfter (.setFreq 0#24) Regs.reset).isSome) ∧
      (failsRangeCheck (.setWave 5#3) ∧ (regsAfter (.setWave 5#3) Regs.reset).isSome) ∧
      (failsRangeCheck (.setSustain 1001#10) ∧ (regsAfter (.setSustain 1001#10) Regs.reset).isSome) ∧
      (failsRangeCheck (.read 0x1B#5) ∧ (regsAfter (.read 0x1B#5) Regs.reset).isSome) ∧
      (¬ failsRangeCheck (.read 0x1A#5) ∧ (regsAfter (.read 0x1A#5) Regs.reset).isSome) ∧
      (¬ failsRangeCheck .tick ∧ (regsAfter .tick Regs.reset).isSome) := by
  refine ⟨⟨.inl rfl, by decide⟩, ⟨.inr (.inl ⟨_, rfl, by decide⟩), by decide⟩,
    ⟨.inr (.inr (.inl ⟨_, rfl, by decide⟩)), by decide⟩, ⟨.inr (.inr (.inr ⟨_, rfl, by decide⟩)), by decide⟩,
    ⟨?_, by decide⟩, ⟨?_, by decide⟩⟩
  · rintro (h | ⟨v, h, -⟩ | ⟨v, h, -⟩ | ⟨a, h, ha⟩)
    · cases h
    · cases h
    · cases h
    · cases h; exact absurd ha (by decide)
  · rintro (h | ⟨v, h, -⟩ | ⟨v, h, -⟩ | ⟨a, h, -⟩) <;> cases h
theorem witness_StepRunsDecodedInstruction :
    (start Regs.reset [Event.word 0#32]).Inv ∧ decodeWord 0#32 = .instr .nop ∧
      (start Regs.reset [.tickPulse]).pending = .tickPulse :: [] ∧
      (State.reset.Inv ∧ State.reset.pending = []) := by decide
theorem witness_TickGoesFirst :
    (start Regs.reset [.tickAndCommand (bytesOfWord 0#32)]).pending = .tickAndCommand (bytesOfWord 0#32) :: [] := by
  decide
theorem witness_ResetInput :
    (start (inEnvelope 7#3 0#32 1023#10 0#32) [.reset]).config.Wf ∧
      (start (inEnvelope 7#3 0#32 1023#10 0#32) [.reset]).pending = .reset :: [] := by decide
theorem witness_StepKeepsInvariant :
    (State.reset.Inv ∧ (after (step State.reset)).isSome) ∧
      (let s := start (inEnvelope 7#3 0#32 1023#10 0#32) [.reset];
        ¬ s.Inv ∧ s.pending.head? = some .reset ∧ (after (step s)).isSome) := by decide
theorem witness_RefusedSteps :
    ¬ ({ sampleRate := 0 } : Config).Wf ∧ ¬ ({ sampleRate := 2 ^ 24 } : Config).Wf ∧
      (State.reset.config.Wf ∧ (start Regs.reset [.command [0#8]]).pending = .command [0#8] :: [] ∧ [0#8].length ≠ 4) ∧
      (let s := start { Regs.reset with waveSel := 5#3 } [Event.word 0#32];
        s.config.Wf ∧ ¬ s.regs.Wf ∧ s.pending.head? ≠ some .reset ∧ s.InputsWhole) := by decide
theorem witness_BlockNeverHalts :
    (start Regs.reset [Event.word 0xFFFFFFFF#32, .tickPulse, .reset, .tickAndCommand (bytesOfWord 0#32)]).Inv ∧
      (start Regs.reset [Event.word 0xFFFFFFFF#32, .tickPulse, .reset,
          .tickAndCommand (bytesOfWord 0#32)]).InputsWhole := by
  decide
theorem witness_ConfigurationIsConstant : (after (runSteps 2 (State.reset.withTicks 1))).isSome := by decide
theorem witness_RegistersWrittenOnlyByTheirInstructions :
    (regsAfter .tick Regs.reset).isSome ∧ (regsAfter .noteOff Regs.reset).isSome ∧
      (regsAfter (.noteOn 0#1) Regs.reset).isSome ∧ (regsAfter (.setFreq 1#24) Regs.reset).isSome := by decide
theorem witness_OutputsOfEachInstruction :
    (shownBy .tick Regs.reset).isSome ∧ (shownBy (.read 0#5) Regs.reset).isSome ∧
      (shownBy (.read 0x1F#5) Regs.reset).isSome ∧
      (shownBy .nop Regs.reset).isSome := by decide
theorem witness_SettersAreIdempotent :
    Instr.setFreq 0#24 ≠ .tick ∧ (regsAfter (.setFreq 0#24) Regs.reset).isSome ∧
      (regsAfter .noteOff Regs.reset).isSome := by
  decide
theorem witness_EnvelopeTransitions :
    State.reset.Inv ∧ (regsAfter (.noteOn 1#1) Regs.reset).isSome ∧ (regsAfter .noteOff Regs.reset).isSome ∧
      (regsAfter .tick Regs.reset).isSome ∧ (regsAfter .nop Regs.reset).isSome := by decide
theorem witness_AttackAndDecayLastTheirTicks : State.reset.Inv ∧ (after (exec (.noteOn 0#1) State.reset)).isSome := by
  decide
theorem witness_ReleaseLastsItsTicks :
    (start (inEnvelope 1#3 0#32 0#10 1#32) []).Inv ∧ (regsAfter .noteOff (inEnvelope 1#3 0#32 0#10 1#32)).isSome ∧
      (start (inEnvelope 3#3 0#32 700#10 0#32) []).Inv ∧
      (regsAfter .noteOff (inEnvelope 3#3 0#32 700#10 0#32)).isSome := by
  decide
theorem witness_SoundingNoteNeverIdles :
    let s := start (inEnvelope 1#3 0#32 0#10 1#32) [.tickPulse, Event.word 0x10000000#32]
    s.Inv ∧ s.regs.envState = 1#3 ∧ (∀ e ∈ s.pending, e ≠ .reset ∧ e.presents 0x11000000#32 = false) ∧
      (after (runSteps 1 s)).isSome := by decide
theorem witness_ResetIsSilent : ({ sampleRate := 1 } : Config).Wf ∧ Config.default.Wf := by decide
theorem witness_IdleOutputSettles : State.reset.Inv ∧ State.reset.regs.envState = 0#3 ∧ 49151 ≤ 49151 := by decide
theorem witness_ProfileIsLatched :
    (after (exec .tick State.reset)).isSome ∧ (after (exec .noteOff State.reset)).isSome := by decide

end Sys2Proof.Tests
end

section
/-! PROOFS, family 00_scope. R8: the configuration is a parameter that the block never writes. The argument goes by
layer: what an instruction leaves alone, what a step leaves alone, and then every run, by the induction over runs. -/

namespace Sys2Proof.Machine

open Sys2Proof

/-! ### What an instruction leaves alone -/

/-- The result, where it is a state, has the configuration and the inputs still to come of `s`: what a meaning that
writes registers and outputs only answers. -/
def KeepsConfigAndTrace (x : Result) (s : State) : Prop :=
  ∀ t, x = .next t → t.config = s.config ∧ t.pending = s.pending

theorem KeepsConfigAndTrace.refl (s : State) : KeepsConfigAndTrace (.next s) s := by
  intro t h; cases h; exact ⟨rfl, rfl⟩

theorem KeepsConfigAndTrace.withRegs (s : State) (r : Regs) : KeepsConfigAndTrace (.next (s.withRegs r)) s := by
  intro t h; cases h; exact ⟨State.withRegs_config s r, State.withRegs_pending s r⟩

theorem KeepsConfigAndTrace.emit (s : State) (o : Output) : KeepsConfigAndTrace (.next (s.emit o)) s := by
  intro t h; cases h; exact ⟨State.emit_config s o, State.emit_pending s o⟩

theorem KeepsConfigAndTrace.reject (s : State) (c : CmdError) (w : Word) :
    KeepsConfigAndTrace (.next (rejectCommand c w s)) s := by
  intro t h; cases h; exact ⟨rejectCommand_config c w s, rejectCommand_pending c w s⟩

/-- A meaning with a range check keeps both when both of its branches do. -/
theorem KeepsConfigAndTrace.ite {p : Prop} [Decidable p] {x y : Result} {s : State}
    (hx : KeepsConfigAndTrace x s) (hy : KeepsConfigAndTrace y s) : KeepsConfigAndTrace (if p then x else y) s := by
  split
  · exact hx
  · exact hy

/-- R220: TICK writes registers and shows its duty value. -/
theorem execTick_keepsConfigAndTrace (s : State) : KeepsConfigAndTrace (execTick s) s := by
  intro t h
  obtain ⟨raw, env, -, -, rfl⟩ := execTick_next h
  simp

/-- R8: an instruction writes neither the configuration nor the trace of inputs. -/
theorem exec_keepsConfigAndTrace (i : Instr) (s : State) : KeepsConfigAndTrace (exec i s) s :=
  match i with
  | .nop => .refl s
  | .setFreq _ | .setWave _ | .setSustain _ => .ite (.withRegs s _) (.reject s _ _)
  | .setAttack _ | .setDecay _ | .setRelease _ | .setGain _ | .setThresh _ _ | .setLpShift _ | .setPwmMax _
  | .setPwmCenter _ | .noteOn _ | .filterReset => .withRegs s _
  | .noteOff => .ite (.withRegs s _) (.refl s)
  | .read _ => .ite (.emit s _) (.reject s _ _)
  | .tick => execTick_keepsConfigAndTrace s

/-- R8: an instruction that completes leaves the configuration. -/
theorem exec_config {i : Instr} {s t : State} (h : exec i s = .next t) : t.config = s.config :=
  (exec_keepsConfigAndTrace i s t h).1

/-- An instruction that completes leaves the inputs still to come. -/
theorem exec_pending {i : Instr} {s t : State} (h : exec i s = .next t) : t.pending = s.pending :=
  (exec_keepsConfigAndTrace i s t h).2

/-! ### Steps and runs -/

/-- R8: a step leaves the configuration, whatever its input. -/
theorem step_config {s t : State} (h : step s = .next t) : t.config = s.config := by
  obtain ⟨-, hstep⟩ := step_cases h
  obtain ⟨rest, -, rfl⟩ | ⟨-, ⟨-, rfl⟩ | ⟨i, u, hu, hexec⟩ | ⟨c, w, u, hu, rfl⟩⟩ := hstep
  · simp
  · rfl
  · obtain ⟨p, rfl⟩ := nextAction_state hu
    exact (exec_config hexec).trans (State.withPending_config s p)
  · obtain ⟨bs, rest, -, -, rfl⟩ := nextAction_reject hu
    simp

/-- What every step keeps, every run keeps. -/
theorem runSteps_induction {P : State → Prop} (hstep : ∀ s t, step s = .next t → P s → P t) :
    ∀ {n : Nat} {s t : State}, runSteps n s = .next t → P s → P t := by
  intro n
  induction n with
  | zero => intro s t h hs; cases h; exact hs
  | succ n ih =>
    intro s u h hs
    obtain ⟨t, hst, htu⟩ := runSteps_succ_next h
    exact ih htu (hstep s t hst hs)

/-- R8: a run leaves the configuration. -/
theorem runSteps_config {n : Nat} {s t : State} (h : runSteps n s = .next t) : t.config = s.config :=
  runSteps_induction (P := fun u => u.config = s.config) (fun _ _ hst hs => (step_config hst).trans hs) h rfl

end Sys2Proof.Machine

/-- Settles O47: every step leaves the configuration, so every run does, by the induction over runs. -/
theorem configurationIsConstant : Obligations.ConfigurationIsConstant :=
  fun _ _ _ h => Sys2Proof.Machine.runSteps_config h
end

section
/-! PROOFS, family 10_state. R48 and R21 to R47: what the registers can hold and who writes them. Both rest on one fact
about the instructions, `exec_regs`: an instruction that completes either writes the registers of its own rule
(`RegsWritten`) or fails its range check and fills the error record. -/

namespace Sys2Proof.Machine

open Sys2Proof

/-! ### What an instruction writes -/

/-- The registers `r` that an accepted instruction leaves behind in the state `s`, one line per row of R83; for the
two commands whose range R48 speaks of, with the range check that was passed. -/
def RegsWritten (i : Instr) (s : State) (r : Regs) : Prop :=
  match i with
  | .nop => r = s.regs
  | .setFreq v =>
    r = { s.regs with freqHz := v, phaseInc := BitVec.ofNat 32 (phaseInc s.config.sampleRate v.toNat) }
  | .setWave v => waveInRange v ∧ r = { s.regs with waveSel := v }
  | .setAttack v => r = { s.regs with attackMs := v }
  | .setDecay v => r = { s.regs with decayMs := v }
  | .setSustain v => sustainInRange v ∧ r = { s.regs with sustainLvl := v }
  | .setRelease v => r = { s.regs with releaseMs := v }
  | .setGain v => r = { s.regs with gain := v }
  | .setThresh sym v => r = { s.regs with scCtrl := scCtrlOf sym v }
  | .setLpShift v => r = { s.regs with lpShift := v }
  | .setPwmMax v => r = { s.regs with pwmMax := v }
  | .setPwmCenter v => r = { s.regs with pwmCenter := v }
  | .noteOn fr =>
    r = { s.regs with
      envATicks := latchTicks s.config s.regs.attackMs
      envDTicks := latchTicks s.config s.regs.decayMs
      envSLvl := s.regs.sustainLvl
      envRTicks := latchTicks s.config s.regs.releaseMs
      envState := envAttack
      envElapsed := 0#32
      envAmp := 0#10
      lpPrev := if fr = 1#1 then 0#16 else s.regs.lpPrev }
  | .noteOff =>
    r = if noteHeld s.regs.envState then
        { s.regs with envRelStart := s.regs.envAmp, envState := envRelease, envElapsed := 0#32 }
      else s.regs
  | .filterReset => r = { s.regs with lpPrev := 0#16 }
  | .read _ => r = s.regs
  | .tick =>
    ∃ raw env, rawSample s.regs = some raw ∧ envProcess s.regs = some env ∧ r = tickRegs raw env s.regs

/-- R242, R243: the registers that an instruction rejected by its range check leaves behind. -/
def RegsRejected (i : Instr) (s : State) (r : Regs) : Prop :=
  failsRangeCheck i ∧ r = recordError .range (encode i) s.regs

/-- An answer of a range-checked meaning comes from the branch that its operand takes. -/
theorem next_of_ite {p : Prop} [Decidable p] {u v t : State}
    (h : (if p then Host.Outcome.next u else .next v : Result) = .next t) : (p ∧ t = u) ∨ (¬ p ∧ t = v) := by
  split at h <;> cases h
  · exact .inl ⟨by assumption, rfl⟩
  · exact .inr ⟨by assumption, rfl⟩

/-- Everything that an instruction which completes can do to the registers. -/
theorem exec_regs {i : Instr} {s t : State} (h : exec i s = .next t) :
    RegsWritten i s t.regs ∨ RegsRejected i s t.regs := by
  cases i with
  | nop | setAttack _ | setDecay _ | setRelease _ | setGain _ | setThresh _ _ | setLpShift _ | setPwmMax _
  | setPwmCenter _ | noteOn _ | filterReset => cases h; exact .inl rfl
  | setFreq v =>
    obtain ⟨-, rfl⟩ | ⟨hv, rfl⟩ := next_of_ite h
    · exact .inl rfl
    · exact .inr ⟨.inl (by rw [not_not.1 hv]), rejectCommand_regs _ _ _⟩
  | setWave v =>
    obtain ⟨hv, rfl⟩ | ⟨hv, rfl⟩ := next_of_ite h
    · exact .inl ⟨hv, rfl⟩
    · exact .inr ⟨.inr (.inl ⟨v, rfl, not_le.1 hv⟩), rejectCommand_regs _ _ _⟩
  | setSustain v =>
    obtain ⟨hv, rfl⟩ | ⟨hv, rfl⟩ := next_of_ite h
    · exact .inl ⟨hv, rfl⟩
    · exact .inr ⟨.inr (.inr (.inl ⟨v, rfl, not_le.1 hv⟩)), rejectCommand_regs _ _ _⟩
  | noteOff =>
    left
    obtain ⟨hs, rfl⟩ | ⟨hs, rfl⟩ := next_of_ite h
    · exact (if_pos hs).symm
    · exact (if_neg hs).symm
  | read a =>
    obtain ⟨-, rfl⟩ | ⟨ha, rfl⟩ := next_of_ite h
    · exact .inl rfl
    · exact .inr ⟨.inr (.inr (.inr ⟨a, rfl, not_le.1 ha⟩)), rejectCommand_regs _ _ _⟩
  | tick =>
    obtain ⟨raw, env, hraw, henv, rfl⟩ := execTick_next h
    exact .inl ⟨raw, env, hraw, henv, rfl⟩

/-! ### The units of TICK stay in range -/

/-- R10: a non-negative integer written to a register does not exceed a bound of the integer; narrowing only lowers
it. -/
theorem toNat_ofInt_le {w b : Nat} {v : Int} (h₀ : 0 ≤ v) (hb : v ≤ b) : (BitVec.ofInt w v).toNat ≤ b := by
  obtain ⟨n, rfl⟩ := Int.eq_ofNat_of_zero_le h₀
  rw [BitVec.ofInt_natCast, BitVec.toNat_ofNat]
  exact (Nat.mod_le n _).trans (by exact_mod_cast hb)

/-- R139 to R142: the part of `a` that a ramp has gone through after `e` of `n` ticks. -/
theorem fdiv_ramp_bounds {a e n : Int} (ha : 0 ≤ a) (he : 0 ≤ e) (hn : e < n) :
    0 ≤ fdiv (a * e) n ∧ fdiv (a * e) n ≤ a :=
  ⟨Int.ediv_nonneg (mul_nonneg ha he) (by omega),
    Int.ediv_le_of_le_mul (by omega) (mul_le_mul_of_nonneg_left hn.le ha)⟩

/-- R48, as far as `EnvProcess` writes it. -/
def EnvStep.InRange (o : EnvStep) : Prop := o.state.toNat ≤ 4 ∧ o.amp.toNat ≤ 1000

theorem envTickIdle_inRange (e : Nat) : (envTickIdle e).InRange := by simp [EnvStep.InRange, envTickIdle]

/-- R139: the ramp to 1000. -/
theorem envTickAttack_inRange (e : Nat) (r : Regs) : (envTickAttack e r).InRange := by
  unfold envTickAttack
  split
  · simp [EnvStep.InRange]
  · obtain ⟨hlo, hhi⟩ := fdiv_ramp_bounds (a := 1000) (e := e) (n := r.envATicks.toNat)
      (by omega) (by omega) (by omega)
    exact ⟨by simp, toNat_ofInt_le hlo hhi⟩

/-- R140: the ramp from 1000 to the sustain level. -/
theorem envTickDecay_inRange (e : Nat) {r : Regs} (h : r.envSLvl.toNat ≤ 1000) : (envTickDecay e r).InRange := by
  unfold envTickDecay
  split
  · exact ⟨by simp, h⟩
  · obtain ⟨hlo, hhi⟩ := fdiv_ramp_bounds (a := 1000 - r.envSLvl.toNat) (e := e) (n := r.envDTicks.toNat)
      (by omega) (by omega) (by omega)
    exact ⟨by simp, toNat_ofInt_le (by omega) (by omega)⟩

theorem envTickSustain_inRange (e : Nat) {r : Regs} (h : r.envSLvl.toNat ≤ 1000) : (envTickSustain e r).InRange :=
  ⟨by simp [envTickSustain], h⟩

/-- R142: the ramp from the release level to 0. -/
theorem envTickRelease_inRange (e : Nat) {r : Regs} (h : r.envRelStart.toNat ≤ 1000) :
    (envTickRelease e r).InRange := by
  unfold envTickRelease
  split
  · simp [EnvStep.InRange]
  · obtain ⟨hlo, hhi⟩ := fdiv_ramp_bounds (a := r.envRelStart.toNat) (e := e) (n := r.envRTicks.toNat)
      (by omega) (by omega) (by omega)
    exact ⟨by simp, toNat_ofInt_le (by omega) (by omega)⟩

/-- R137, R48: `EnvProcess` stays in range from levels that are in range. -/
theorem envProcess_inRange {r : Regs} {o : EnvStep} (h : envProcess r = some o) (hrel : r.envRelStart.toNat ≤ 1000)
    (hs : r.envSLvl.toNat ≤ 1000) : o.InRange := by
  obtain ⟨-, rfl⟩ | ⟨-, rfl⟩ | ⟨-, rfl⟩ | ⟨-, rfl⟩ | ⟨-, rfl⟩ := envProcess_spec h
  · exact envTickIdle_inRange _
  · exact envTickAttack_inRange _ r
  · exact envTickDecay_inRange _ hs
  · exact envTickSustain_inRange _ hs
  · exact envTickRelease_inRange _ hrel

/-- R105: the noise register never becomes 0. A step that shifts out a 1 sets the top bit by the taps; a step that
shifts out a 0 loses nothing. -/
theorem lfsrStep_ne_zero {l : BitVec 16} (h : l ≠ 0#16) : lfsrStep l ≠ 0#16 := by
  unfold lfsrStep
  split
  · intro hz
    have htop := congrArg (BitVec.getLsbD · 15) hz
    simp [Config.lfsrTaps] at htop
  · rename_i hbit
    intro hz
    apply h
    apply BitVec.eq_of_getLsbD_eq
    intro k _
    cases k with
    | zero => simpa using hbit
    | succ k =>
      have hk := congrArg (BitVec.getLsbD · k) hz
      simpa [Nat.add_comm] using hk

/-- R200: the mapper's clamp. -/
theorem pwmMap_bounds (c : Int) (m center : Nat) : 0 ≤ pwmMap c m center ∧ pwmMap c m center ≤ m :=
  clamp_bounds _ (by omega)

/-! ### The invariant of R48 -/

theorem Regs.reset_wf : Regs.reset.Wf := by decide

/-- R242: a filled record is no longer bound by R48, and no other register changes. -/
theorem recordError_wf {r : Regs} (c : CmdError) (w : Word) (h : r.Wf) : (recordError c w r).Wf := by
  obtain ⟨hamp, hrel, hslvl, hsus, hwave, hstate, hlfsr, -⟩ := h
  exact ⟨hamp, hrel, hslvl, hsus, hwave, hstate, hlfsr, fun herr => absurd herr (by simp)⟩

/-- R220: TICK writes three of the registers that R48 bounds: ENV_STATE, ENV_AMP and NOISE_LFSR. -/
theorem tickRegs_wf {raw : Int} {env : EnvStep} {r : Regs} (henv : env.InRange) (h : r.Wf) :
    (tickRegs raw env r).Wf := by
  obtain ⟨-, hrel, hslvl, hsus, hwave, -, hlfsr, herr⟩ := h
  obtain ⟨hstate, hamp⟩ := henv
  exact ⟨hamp, hrel, hslvl, hsus, hwave, hstate, lfsrStep_ne_zero hlfsr, herr⟩

/-- R48: what an accepted instruction writes keeps the invariant. -/
theorem RegsWritten.wf {i : Instr} {s : State} {r : Regs} (hw : RegsWritten i s r) (h : s.regs.Wf) : r.Wf := by
  have hs := h
  obtain ⟨hamp, hrel, hslvl, hsus, hwave, hstate, hlfsr, herr⟩ := h
  cases i with
  | nop | setFreq _ | setAttack _ | setDecay _ | setRelease _ | setGain _ | setThresh _ _ | setLpShift _ | setPwmMax _
  | setPwmCenter _ | filterReset | read _ => cases hw; exact hs
  | setWave v =>
    obtain ⟨hv, rfl⟩ := hw
    exact ⟨hamp, hrel, hslvl, hsus, hv, hstate, hlfsr, herr⟩
  | setSustain v =>
    obtain ⟨hv, rfl⟩ := hw
    exact ⟨hamp, hrel, hslvl, hv, hwave, hstate, hlfsr, herr⟩
  | noteOn fr =>
    cases hw
    exact ⟨by simp, hrel, hsus, hsus, hwave, by simp, hlfsr, herr⟩
  | noteOff =>
    cases hw
    split
    · exact ⟨hamp, hamp, hslvl, hsus, hwave, by simp, hlfsr, herr⟩
    · exact hs
  | tick =>
    obtain ⟨raw, env, -, henv, rfl⟩ := hw
    exact tickRegs_wf (envProcess_inRange henv hrel hslvl) hs

/-- R48: an instruction that completes keeps the invariant of the registers. -/
theorem exec_keeps_wf {i : Instr} {s t : State} (h : exec i s = .next t) (hs : s.regs.Wf) : t.regs.Wf := by
  obtain hw | ⟨-, hr⟩ := exec_regs h
  · exact hw.wf hs
  · rw [hr]; exact recordError_wf _ _ hs

/-- R48: a step that completes ends in the invariant. The step itself asks for R48 before every input but reset. -/
theorem step_inv {s t : State} (h : step s = .next t) : t.Inv := by
  have hconfig := step_config h
  obtain ⟨hc, hstep⟩ := step_cases h
  refine ⟨by rw [hconfig]; exact hc, ?_⟩
  obtain ⟨rest, -, rfl⟩ | ⟨hwf, ⟨-, rfl⟩ | ⟨i, u, hu, hexec⟩ | ⟨c, w, u, hu, rfl⟩⟩ := hstep
  · exact Regs.reset_wf
  · exact hwf
  · obtain ⟨p, rfl⟩ := nextAction_state hu
    exact exec_keeps_wf hexec hwf
  · obtain ⟨bs, rest, -, -, rfl⟩ := nextAction_reject hu
    rw [rejectCommand_regs]
    exact recordError_wf c w hwf

/-! ### Which inputs a step gives no meaning -/

/-- R88: a word is always read as an instruction or rejected by name. -/
theorem decodeWord_ne_notOneWord (w : Word) : decodeWord w ≠ .notOneWord := by
  unfold decodeWord
  split <;> simp

/-- R63, R64: bytes are no transaction exactly when they are not four. -/
theorem decodeBytes_eq_notOneWord_iff (bs : List Byte) : decodeBytes bs = .notOneWord ↔ bs.length ≠ 4 := by
  rw [ne_eq, ← wordOfBytes_isSome_iff, Option.not_isSome_iff_eq_none]
  unfold decodeBytes
  cases wordOfBytes bs with
  | none => simp
  | some w => simp [decodeWord_ne_notOneWord]

/-- R215: a transaction never asks for reset. -/
theorem commandAction_ne_reset (bs : List Byte) (s u : State) : commandAction bs s ≠ .reset u := by
  unfold commandAction
  split <;> simp

/-- R64: a transaction is refused exactly when it is no whole word. -/
theorem commandAction_eq_refuse_iff (bs : List Byte) (s : State) :
    commandAction bs s = .refuse ↔ bs.length ≠ 4 := by
  rw [← decodeBytes_eq_notOneWord_iff]
  unfold commandAction
  cases decodeBytes bs <;> simp

/-- R64: the next action is a refusal exactly for a transaction that is no whole word. -/
theorem nextAction_eq_refuse_iff (s : State) :
    nextAction s = .refuse ↔ ∃ bs rest, s.pending = .command bs :: rest ∧ bs.length ≠ 4 := by
  unfold nextAction
  cases s.pending with
  | nil => simp
  | cons e rest =>
    cases e with
    | command bs => simp [commandAction_eq_refuse_iff]
    | tickPulse | tickAndCommand _ | reset => simp

/-- R270: the next action is reset only for the reset input. -/
theorem nextAction_reset {s u : State} (h : nextAction s = .reset u) : s.pending.head? = some .reset := by
  unfold nextAction at h
  cases hp : s.pending with
  | nil => simp [hp] at h
  | cons e rest =>
    cases e with
    | reset => rfl
    | command bs => exact absurd (by simpa [hp] using h) (commandAction_ne_reset bs (s.withPending rest) u)
    | tickPulse | tickAndCommand _ => simp [hp] at h

/-- I8: an `SR` out of range. -/
theorem step_of_config_not_wf {s : State} (hc : ¬ s.config.Wf) : step s = .refused .sampleRateOutOfRange :=
  if_neg hc

/-- R64: bytes that are no whole word, whatever the registers. -/
theorem step_of_refuse {s : State} (hc : s.config.Wf) (h : nextAction s = .refuse) :
    step s = .refused .notOneWord := by
  unfold step
  rw [if_pos hc, h]

/-- R48, I20: registers that break R48, for every action that is not reset or itself a refusal. -/
theorem step_of_regs_not_wf {s : State} (hc : s.config.Wf) (hr : ¬ s.regs.Wf)
    (hreset : ∀ u, nextAction s ≠ .reset u) (hrefuse : nextAction s ≠ .refuse) : step s = .refused .unreachableState := by
  unfold step
  rw [if_pos hc]
  cases h : nextAction s with
  | reset u => exact absurd h (hreset u)
  | refuse => exact absurd h hrefuse
  | idle | run _ _ | reject _ _ _ => exact if_neg hr

end Sys2Proof.Machine

open Sys2Proof Sys2Proof.Machine

/-- Settles O44: a step that completes took the reset input, which sets the registers of R271, or ran from registers
that meet R48, which every instruction (`exec_keeps_wf`) and every rejection (`recordError_wf`) keeps. Either half of
the hypothesis is what `step` itself asks for before it completes, so `step_inv` needs none. -/
theorem stepKeepsInvariant : Obligations.StepKeepsInvariant :=
  fun _ _ _ h => step_inv h

/-- Settles O36: PWM_DUTY is the mapper's clamped value, and TICK does not write PWM_MAX. -/
theorem dutyWithinPwmMax : Obligations.DutyWithinPwmMax := by
  intro s t h
  obtain ⟨raw, env, -, -, rfl⟩ := execTick_next h
  obtain ⟨hlo, hhi⟩ :=
    pwmMap_bounds (tickClipped (tickLowPass raw env.amp s.regs) s.regs) s.regs.pwmMax.toNat s.regs.pwmCenter.toNat
  exact ⟨toNat_ofInt_le hlo hhi, rfl⟩

/-- Settles O43: the values of R271 meet R48, and the default `SR` is in the range of R7. -/
theorem resetHasInvariant : Obligations.ResetHasInvariant := ⟨by decide, Regs.reset_wf⟩

/-- Settles O45: the three refusals are the three answers of `step` that are no state, told apart by the next action. -/
theorem refusedSteps : Obligations.RefusedSteps := by
  intro s
  refine ⟨step_of_config_not_wf, fun hc bs rest hp hlen => ?_, fun hc hr hreset hwhole => ?_⟩
  · exact step_of_refuse hc ((nextAction_eq_refuse_iff s).2 ⟨bs, rest, hp, hlen⟩)
  · refine step_of_regs_not_wf hc hr (fun u hu => hreset (nextAction_reset hu)) fun hrefuse => ?_
    obtain ⟨bs, rest, hp, hlen⟩ := (nextAction_eq_refuse_iff s).1 hrefuse
    exact hlen (hwhole bs rest hp)

/-- Settles O48: an accepted instruction writes the registers of its row of `RegsWritten` and no others; a rejected one
writes the error record only, and it fails its range check. -/
theorem registersWrittenOnlyByTheirInstructions : Obligations.RegistersWrittenOnlyByTheirInstructions := by
  intro i s t h
  obtain hw | ⟨hfail, hr⟩ := exec_regs h
  · cases i with
    | nop | setFreq _ | setAttack _ | setDecay _ | setRelease _ | setGain _ | setThresh _ _ | setLpShift _
    | setPwmMax _ | setPwmCenter _ | filterReset | read _ =>
      have hr : t.regs = _ := hw
      simp [hr]
    | setWave _ | setSustain _ =>
      obtain ⟨-, hr⟩ := hw
      simp [hr]
    | noteOn fr =>
      have hr : t.regs = _ := hw
      simp +contextual [hr]
    | noteOff =>
      have hr : t.regs = _ := hw
      rw [hr]
      split <;> simp
    | tick =>
      obtain ⟨raw, env, -, -, hr⟩ := hw
      simp [hr, tickRegs]
  · simp [hr, hfail, recordError]
end

section
/-! PROOFS, family 20_memory. R65 and R66: what a repeated command leaves, and in which order inputs of the same instant
are performed. R65 goes by the kind of meaning: a write of registers, a range-checked choice between a write and a
rejection, and NOTE_OFF, whose own write takes it to the state in which it does nothing. -/

namespace Sys2Proof.Machine

open Sys2Proof

/-! ### Meanings performed twice (R65) -/

/-- R65: performed on the state it left, the meaning leaves that state. -/
def IdempotentMeaning (f : State → Result) : Prop := ∀ s t, f s = .next t → f t = .next t

/-- A write of registers is idempotent when it computes the same registers from what it wrote. -/
theorem IdempotentMeaning.withRegs {g : State → Regs} (hg : ∀ s, g (s.withRegs (g s)) = g s) :
    IdempotentMeaning fun s => .next (s.withRegs (g s)) := by
  intro s t h
  cases h
  simp [hg]

/-- A range check reads the operand only, so both performances take the same branch. -/
theorem IdempotentMeaning.ite {p : Prop} [Decidable p] {f g : State → Result} (hf : IdempotentMeaning f)
    (hg : IdempotentMeaning g) : IdempotentMeaning fun s => if p then f s else g s := by
  split
  · exact hf
  · exact hg

/-- R242: the record is filled once. -/
@[simp] theorem recordError_recordError (c : CmdError) (w : Word) (r : Regs) :
    recordError c w (recordError c w r) = recordError c w r :=
  recordError_of_set (recordError_err c w r) c w

/-- R216, R242: the rejection of a word that is no READ shows nothing. -/
theorem rejectCommand_of_ne_read {w : Word} (h : opField w ≠ Opcode.read.code) (c : CmdError) (s : State) :
    rejectCommand c w s = s.withRegs (recordError c w s.regs) :=
  if_neg h

/-- R65: a rejected command, unless it is a READ, which shows a 0 each time. -/
theorem IdempotentMeaning.reject {w : Word} {op : BitVec 8} (hw : opField w = op) (hop : op ≠ Opcode.read.code)
    (c : CmdError) : IdempotentMeaning fun s => .next (rejectCommand c w s) := by
  simp only [rejectCommand_of_ne_read (hw.trans_ne hop)]
  exact .withRegs fun s => recordError_recordError c w s.regs

/-- R65, R136: NOTE_OFF leaves RELEASE or IDLE, or a code that is no state, and from none of them does it write. -/
theorem execNoteOff_idempotent : IdempotentMeaning execNoteOff := by
  intro s t h
  suffices hidle : ¬ noteHeld t.regs.envState from if_neg hidle
  obtain ⟨-, rfl⟩ | ⟨hidle, rfl⟩ := next_of_ite h
  · show ¬ noteHeld envRelease
    decide
  · exact hidle

/-- R65: every instruction but TICK, NOTE_ON and READ. -/
theorem exec_idempotent {i : Instr} (htick : i ≠ .tick) (hon : ∀ fr, i ≠ .noteOn fr) (hread : ∀ a, i ≠ .read a) :
    IdempotentMeaning (exec i) := by
  cases i with
  | nop => exact fun _ _ _ => rfl
  | setAttack _ | setDecay _ | setRelease _ | setGain _ | setThresh _ _ | setLpShift _ | setPwmMax _
  | setPwmCenter _ | filterReset => exact .withRegs fun _ => rfl
  | setFreq v => exact .ite (.withRegs fun _ => rfl) (.reject (op := 0x01#8) (Laws.Spelling.setFreq v) (by decide) _)
  | setWave v => exact .ite (.withRegs fun _ => rfl) (.reject (op := 0x02#8) (Laws.Spelling.setWave v) (by decide) _)
  | setSustain v =>
    exact .ite (.withRegs fun _ => rfl) (.reject (op := 0x05#8) (Laws.Spelling.setSustain v) (by decide) _)
  | noteOff => exact execNoteOff_idempotent
  | noteOn fr => exact absurd rfl (hon fr)
  | read a => exact absurd rfl (hread a)
  | tick => exact absurd rfl htick

/-! ### Inputs of the same instant (R66) -/

/-- R221: a pulse asks for a TICK. -/
theorem nextAction_tickPulse {s : State} {rest : List Event} (h : s.pending = .tickPulse :: rest) :
    nextAction s = .run .tick (s.withPending rest) := by
  simp [nextAction, h]

/-- R66, R245: a pulse and a transaction at once ask for the TICK and leave the transaction next. -/
theorem nextAction_tickAndCommand {s : State} {bs : List Byte} {rest : List Event}
    (h : s.pending = .tickAndCommand bs :: rest) :
    nextAction s = .run .tick (s.withPending (.command bs :: rest)) := by
  simp [nextAction, h]

/-- What a step that is asked to run an instruction answers, from every state. -/
theorem step_eq_of_run {s u : State} {i : Instr} (h : nextAction s = .run i u) :
    step s =
      if s.config.Wf then if s.regs.Wf then exec i u else .refused .unreachableState
      else .refused .sampleRateOutOfRange := by
  simp only [step, h]

end Sys2Proof.Machine

open Sys2Proof Sys2Proof.Machine

/-- Settles O50: a setter's second write finds its own values, a rejection's second record finds the first, and the state
NOTE_OFF leaves is one that it ignores. -/
theorem settersAreIdempotent : Obligations.SettersAreIdempotent :=
  fun _ s t htick hon hread => exec_idempotent htick hon hread s t

/-- Settles O40: both traces ask for the TICK on the state that has the transaction next, and the registers and the
configuration that the step checks are the same. -/
theorem tickGoesFirst : Obligations.TickGoesFirst := by
  intro s bs rest h
  have hpulse := nextAction_tickPulse (s := s.withPending (.tickPulse :: .command bs :: rest)) rfl
  exact (step_eq_of_run (nextAction_tickAndCommand h)).trans (step_eq_of_run hpulse).symm
end

section
/-! PROOFS, family 30_encoding. R82 to R91: the decoder and the encoder are inverse to each other. Everything is read
off two numbers of a word, its OP and its ARG: a row accepts a word when the OP is its own and the ARG fits its operand
field (`accept_eq_ok_iff_toNat`), and that is when the word is the encoding of what the row reads from it
(`accept_eq_ok_iff_encode`). -/

namespace Sys2Proof

/-! ### The two numbers of a word: OP and ARG -/

/-- R80: `OP` is the number above the low 24 bits. -/
theorem opField_toNat (w : Word) : (opField w).toNat = w.toNat / 2 ^ 24 := by
  rw [opField, BitVec.extractLsb'_toNat, Nat.shiftRight_eq_div_pow]
  omega

/-- R82: an operand field is the low bits of the word. -/
theorem argField_toNat (len : Nat) (w : Word) : (argField len w).toNat = w.toNat % 2 ^ len := by
  rw [argField, BitVec.extractLsb'_toNat, Nat.shiftRight_zero]

/-- R82, format TH: `SYM` is bit 15. -/
theorem symField_toNat (w : Word) : (symField w).toNat = w.toNat / 2 ^ 15 % 2 := by
  rw [symField, BitVec.extractLsb'_toNat, Nat.shiftRight_eq_div_pow, pow_one]

/-! ### The rows of R83 in numbers -/

/-- R82, R83: the number of operand bits of a row, at the bottom of ARG; every other bit of ARG is reserved. -/
def Opcode.width : Opcode → Nat
  | .nop | .noteOff | .filterReset => 0
  | .noteOn => 1
  | .setWave => 3
  | .setLpShift => 4
  | .read => 5
  | .setGain => 8
  | .setSustain => 10
  | .setAttack | .setDecay | .setRelease | .setThresh | .setPwmMax | .setPwmCenter => 16
  | .setFreq => 24

theorem Opcode.width_le (o : Opcode) : o.width ≤ 24 := by cases o <;> decide

/-- R83: a row's mask leaves out its operand bits and nothing else. -/
theorem Opcode.mask_eq (o : Opcode) : o.mask = BitVec.allOnes 32 <<< o.width := by cases o <;> rfl

/-- R83: a row's match word is its opcode with the ARG 0. -/
theorem Opcode.matchWord_toNat (o : Opcode) : o.matchWord.toNat = o.code.toNat * 2 ^ 24 := by cases o <;> rfl

/-- R83: every mask covers the bits 31:24. -/
theorem Opcode.mask_and_opBits (o : Opcode) : o.mask &&& 0xFF000000#32 = 0xFF000000#32 := by cases o <;> rfl

/-- A mask that leaves out the low `k` bits clears them. -/
theorem and_allOnes_shiftLeft_toNat (w : Word) (k : Nat) :
    (w &&& BitVec.allOnes 32 <<< k).toNat = w.toNat / 2 ^ k * 2 ^ k := by
  rw [← BitVec.shiftLeft_ushiftRight, BitVec.toNat_shiftLeft, BitVec.toNat_ushiftRight, Nat.shiftRight_eq_div_pow,
    Nat.shiftLeft_eq]
  exact Nat.mod_eq_of_lt ((Nat.div_mul_le_self _ _).trans_lt w.isLt)

/-- Clearing the low digits of `n` down to base `a` or down to base `b` is the same when the part between is 0. -/
theorem div_mul_eq_div_mul_iff {a b n : Nat} (hab : a ∣ b) (ha : 0 < a) : n / a * a = n / b * b ↔ n % b < a := by
  have hmod : n % b % a = n % a := Nat.mod_mod_of_dvd n hab
  have hna := Nat.div_add_mod' n a
  have hnb := Nat.div_add_mod' n b
  constructor
  · intro heq
    have hrem : n % b = n % a := by omega
    exact hrem ▸ Nat.mod_lt n ha
  · intro hlt
    rw [Nat.mod_eq_of_lt hlt] at hmod
    omega

/-- R84: a word of a row's opcode passes the row's mask exactly when its ARG fits the operand field. -/
theorem Opcode.and_mask_eq_iff {o : Opcode} {w : Word} (h : opField w = o.code) :
    w &&& o.mask = o.matchWord ↔ w.toNat % 2 ^ 24 < 2 ^ o.width := by
  rw [← BitVec.toNat_inj, o.mask_eq, and_allOnes_shiftLeft_toNat, o.matchWord_toNat, ← h, opField_toNat]
  exact div_mul_eq_div_mul_iff (pow_dvd_pow 2 o.width_le) (by positivity)

/-- A word has a row's opcode exactly when its OP is the number of the opcode. -/
theorem opField_eq_code_iff {w : Word} {o : Opcode} : opField w = o.code ↔ w.toNat / 2 ^ 24 = o.code.toNat := by
  rw [← BitVec.toNat_inj, opField_toNat]

/-! ### The four answers of the acceptance checks (R216) -/

/-- R83, R84: a row accepts the words of its opcode whose ARG fits the operand field. -/
theorem accept_eq_ok_iff_toNat {w : Word} {o : Opcode} :
    accept w = .ok o ↔ w.toNat / 2 ^ 24 = o.code.toNat ∧ w.toNat % 2 ^ 24 < 2 ^ o.width := by
  rw [accept_eq_ok_iff, ← opField_eq_code_iff]
  exact and_congr_right Opcode.and_mask_eq_iff

/-- R84: a word of an assigned opcode is accepted or has a reserved bit set. -/
theorem accept_of_code {w : Word} {o : Opcode} (h : opField w = o.code) :
    accept w = if w &&& o.mask = o.matchWord then .ok o else .error .reservedBits := by
  rw [accept, if_neg (h.trans_ne o.code_ne_tickOp), h, Opcode.ofCode?_code]

/-- R86: the opcode of TICK. -/
theorem accept_of_tickOp {w : Word} (h : opField w = tickOp) : accept w = .error .wrongPort := if_pos h

/-- R85: the opcodes of no row. -/
theorem accept_of_unassigned {w : Word} (htick : opField w ≠ tickOp) (h : Opcode.ofCode? (opField w) = none) :
    accept w = .error .illegalOp := by
  rw [accept, if_neg htick, h]

/-- R83, R85, R86: an opcode is TICK's, a row's, or unassigned. -/
theorem opcode_cases (c : BitVec 8) :
    c = tickOp ∨ (∃ o : Opcode, c = o.code) ∨ (c ≠ tickOp ∧ Opcode.ofCode? c = none) := by
  by_cases htick : c = tickOp
  · exact .inl htick
  · cases ho : Opcode.ofCode? c with
    | none => exact .inr (.inr ⟨htick, rfl⟩)
    | some o => exact .inr (.inl ⟨o, (Opcode.ofCode?_eq_some_iff.1 ho).symm⟩)

/-- R216: which words are rejected, and with which cause. -/
theorem accept_eq_error_iff {w : Word} {c : CmdError} :
    accept w = .error c ↔
      (c = .wrongPort ∧ opField w = tickOp) ∨
        (c = .illegalOp ∧ opField w ≠ tickOp ∧ Opcode.ofCode? (opField w) = none) ∨
          (c = .reservedBits ∧ ∃ o : Opcode, opField w = o.code ∧ w &&& o.mask ≠ o.matchWord) := by
  constructor
  · intro h
    obtain htick | ⟨o, ho⟩ | ⟨htick, hnone⟩ := opcode_cases (opField w)
    · rw [accept_of_tickOp htick] at h
      cases h
      exact .inl ⟨rfl, htick⟩
    · rw [accept_of_code ho] at h
      split at h <;> cases h
      exact .inr (.inr ⟨rfl, o, ho, by assumption⟩)
    · rw [accept_of_unassigned htick hnone] at h
      cases h
      exact .inr (.inl ⟨rfl, htick, hnone⟩)
  · rintro (⟨rfl, htick⟩ | ⟨rfl, htick, hnone⟩ | ⟨rfl, o, ho, hmask⟩)
    · exact accept_of_tickOp htick
    · exact accept_of_unassigned htick hnone
    · rw [accept_of_code ho, if_neg hmask]

/-- R86: the words of TICK's opcode are rejected as such. -/
theorem accept_eq_wrongPort_iff {w : Word} : accept w = .error .wrongPort ↔ opField w = tickOp := by
  simp [accept_eq_error_iff]

/-- R85: the words of an unassigned opcode are rejected as such. -/
theorem accept_eq_illegalOp_iff {w : Word} :
    accept w = .error .illegalOp ↔ opField w ≠ tickOp ∧ Opcode.ofCode? (opField w) = none := by
  simp [accept_eq_error_iff]

/-- R84: the words of a row's opcode whose ARG does not fit the operand field are rejected as such. -/
theorem accept_eq_reservedBits_iff {w : Word} :
    accept w = .error .reservedBits ↔
      ∃ o : Opcode, w.toNat / 2 ^ 24 = o.code.toNat ∧ 2 ^ o.width ≤ w.toNat % 2 ^ 24 := by
  simp only [accept_eq_error_iff, reduceCtorEq, false_and, false_or, true_and, ← opField_eq_code_iff]
  exact exists_congr fun o => and_congr_right fun ho => (Opcode.and_mask_eq_iff ho).not.trans not_lt

/-- R85: the ranges of OP that R83 leaves unassigned. -/
theorem unassigned_iff (c : BitVec 8) :
    (c ≠ tickOp ∧ Opcode.ofCode? c = none) ↔
      (0x0C ≤ c.toNat ∧ c.toNat ≤ 0x0F) ∨ (0x13 ≤ c.toNat ∧ c.toNat ≤ 0x1F) ∨
        (0x21 ≤ c.toNat ∧ c.toNat ≤ 0x7F) ∨ 0x81 ≤ c.toNat := by
  have hc := c.isLt
  simp only [tickOp, ne_eq, ← BitVec.toNat_inj, BitVec.toNat_ofNat, Nat.reducePow, Nat.reduceMod, Opcode.ofCode?,
    Opcode.code, Opcode.all, List.find?_eq_none, List.mem_cons, List.not_mem_nil, or_false, beq_iff_eq,
    forall_eq_or_imp, Nat.zero_mod, Nat.one_mod, forall_eq]
  omega

/-- R216: the decoder rejects a word with the cause of the first check that fails. -/
theorem decodeWord_eq_rejected_iff {w : Word} {c : CmdError} :
    decodeWord w = .rejected c w ↔ accept w = .error c := by
  unfold decodeWord
  cases accept w <;> simp

/-! ### The word of an instruction in numbers -/

/-- R82, R83: the ARG of an instruction's word: its operand, for SET_THRESH the mode bit above the threshold. -/
def Instr.arg : Instr → Nat
  | .nop | .noteOff | .filterReset | .tick => 0
  | .setFreq v => v.toNat
  | .setWave v => v.toNat
  | .setAttack v | .setDecay v | .setRelease v | .setPwmMax v | .setPwmCenter v => v.toNat
  | .setSustain v => v.toNat
  | .setGain v => v.toNat
  | .setThresh sym v => sym.toNat * 2 ^ 15 + v.toNat
  | .setLpShift v => v.toNat
  | .noteOn fr => fr.toNat
  | .read a => a.toNat

/-- A field below a field of zeros. -/
theorem toNat_append_zeros_append {k m n : Nat} (c : BitVec k) (v : BitVec n) :
    (c ++ 0#m ++ v).toNat = c.toNat * 2 ^ (m + n) + v.toNat := by
  rw [toNat_append_add, toNat_append_add, BitVec.toNat_zero, add_zero, mul_assoc, ← pow_add]

/-- R82, R83, R90: the value of an instruction's word. -/
theorem encode_toNat (i : Instr) : (encode i).toNat = (Laws.Spelling.opcode i).toNat * 2 ^ 24 + i.arg :=
  match i with
  | .nop | .noteOff | .filterReset | .tick => rfl
  | .setFreq v => toNat_append_add 0x01#8 v
  | .setWave v => toNat_append_zeros_append (m := 21) 0x02#8 v
  | .setAttack v => toNat_append_zeros_append (m := 8) 0x03#8 v
  | .setDecay v => toNat_append_zeros_append (m := 8) 0x04#8 v
  | .setSustain v => toNat_append_zeros_append (m := 14) 0x05#8 v
  | .setRelease v => toNat_append_zeros_append (m := 8) 0x06#8 v
  | .setGain v => toNat_append_zeros_append (m := 16) 0x07#8 v
  | .setThresh sym v =>
    (toNat_append_add (0x08#8 ++ 0#8 ++ sym) v).trans (by
      rw [toNat_append_zeros_append, add_mul, mul_assoc, add_assoc]
      rfl)
  | .setLpShift v => toNat_append_zeros_append (m := 20) 0x09#8 v
  | .setPwmMax v => toNat_append_zeros_append (m := 8) 0x0A#8 v
  | .setPwmCenter v => toNat_append_zeros_append (m := 8) 0x0B#8 v
  | .noteOn fr => toNat_append_zeros_append (m := 23) 0x10#8 fr
  | .read a => toNat_append_zeros_append (m := 19) 0x20#8 a

/-- R82: an operand field of an instruction's word lies in its ARG. -/
theorem argField_encode_toNat {n : Nat} (hn : n ≤ 24) (i : Instr) : (argField n (encode i)).toNat = i.arg % 2 ^ n := by
  have hdvd : 2 ^ n ∣ (Laws.Spelling.opcode i).toNat * 2 ^ 24 := (pow_dvd_pow 2 hn).mul_left _
  rw [argField_toNat, encode_toNat, Nat.add_mod, Nat.mod_eq_zero_of_dvd hdvd, zero_add, Nat.mod_mod]

/-- R82: an operand that is the whole ARG is read back. -/
theorem argField_encode {n : Nat} {v : BitVec n} {i : Instr} (hn : n ≤ 24) (h : i.arg = v.toNat) :
    argField n (encode i) = v :=
  BitVec.eq_of_toNat_eq (by rw [argField_encode_toNat hn, h, Nat.mod_eq_of_lt v.isLt])

/-- R82, format TH: the threshold is read back. -/
theorem argField_encode_setThresh (sym : BitVec 1) (v : BitVec 15) : argField 15 (encode (.setThresh sym v)) = v := by
  apply BitVec.eq_of_toNat_eq
  rw [argField_encode_toNat (by decide), Instr.arg, Nat.mul_add_mod_self_right, Nat.mod_eq_of_lt v.isLt]

/-- R82, format TH: the mode bit is read back. -/
theorem symField_encode_setThresh (sym : BitVec 1) (v : BitVec 15) : symField (encode (.setThresh sym v)) = sym := by
  apply BitVec.eq_of_toNat_eq
  rw [symField_toNat, encode_toNat, Instr.arg]
  have hsym := sym.isLt
  have hv := v.isLt
  omega

/-- R83: a row reads instructions of its own opcode. -/
theorem Opcode.opcode_operands (o : Opcode) (w : Word) : Laws.Spelling.opcode (o.operands w) = o.code := by
  cases o <;> rfl

/-- R82: a row reads the operand bits of the word and no others. -/
theorem Opcode.arg_operands (o : Opcode) (w : Word) : (o.operands w).arg = w.toNat % 2 ^ o.width := by
  cases o with
  | nop | noteOff | filterReset => exact (Nat.mod_one _).symm
  | setThresh =>
    simp only [operands, Instr.arg, symField_toNat, argField_toNat, width]
    omega
  | setFreq | setWave | setAttack | setDecay | setSustain | setRelease | setGain | setLpShift | setPwmMax | setPwmCenter
  | noteOn | read => exact argField_toNat _ w

/-! ### Decoding and encoding are inverse -/

/-- R90: a row's encoding of what it reads from a word has the row's OP, and the word's operand bits as its ARG. -/
theorem encode_operands_toNat (o : Opcode) (w : Word) :
    (encode (o.operands w)).toNat = o.code.toNat * 2 ^ 24 + w.toNat % 2 ^ o.width := by
  rw [encode_toNat, o.opcode_operands, o.arg_operands]

/-- R83, R90: a row accepts a word exactly when the word is the encoding of what the row reads from it. -/
theorem accept_eq_ok_iff_encode {w : Word} {o : Opcode} : accept w = .ok o ↔ encode (o.operands w) = w := by
  rw [accept_eq_ok_iff_toNat, ← BitVec.toNat_inj, encode_operands_toNat]
  have hw := Nat.div_add_mod' w.toNat (2 ^ 24)
  constructor
  · rintro ⟨hop, harg⟩
    have hmod : w.toNat % 2 ^ 24 % 2 ^ o.width = w.toNat % 2 ^ o.width :=
      Nat.mod_mod_of_dvd _ (pow_dvd_pow 2 o.width_le)
    rw [← hmod, Nat.mod_eq_of_lt harg, ← hop, hw]
  · intro h
    have hlt : w.toNat % 2 ^ o.width < 2 ^ o.width := Nat.mod_lt _ (by positivity)
    have hle : 2 ^ o.width ≤ 2 ^ 24 := Nat.pow_le_pow_right (by decide) o.width_le
    omega

/-- R82, R83: every command of the command port is read back from its word by a row. -/
theorem exists_operands_encode {i : Instr} (h : i ≠ .tick) : ∃ o : Opcode, o.operands (encode i) = i :=
  match i, h with
  | .nop, _ => ⟨.nop, rfl⟩
  | .setFreq _, _ => ⟨.setFreq, congrArg Instr.setFreq (argField_encode (by decide) rfl)⟩
  | .setWave _, _ => ⟨.setWave, congrArg Instr.setWave (argField_encode (by decide) rfl)⟩
  | .setAttack _, _ => ⟨.setAttack, congrArg Instr.setAttack (argField_encode (by decide) rfl)⟩
  | .setDecay _, _ => ⟨.setDecay, congrArg Instr.setDecay (argField_encode (by decide) rfl)⟩
  | .setSustain _, _ => ⟨.setSustain, congrArg Instr.setSustain (argField_encode (by decide) rfl)⟩
  | .setRelease _, _ => ⟨.setRelease, congrArg Instr.setRelease (argField_encode (by decide) rfl)⟩
  | .setGain _, _ => ⟨.setGain, congrArg Instr.setGain (argField_encode (by decide) rfl)⟩
  | .setThresh sym v, _ =>
    ⟨.setThresh, congrArg₂ Instr.setThresh (symField_encode_setThresh sym v) (argField_encode_setThresh sym v)⟩
  | .setLpShift _, _ => ⟨.setLpShift, congrArg Instr.setLpShift (argField_encode (by decide) rfl)⟩
  | .setPwmMax _, _ => ⟨.setPwmMax, congrArg Instr.setPwmMax (argField_encode (by decide) rfl)⟩
  | .setPwmCenter _, _ => ⟨.setPwmCenter, congrArg Instr.setPwmCenter (argField_encode (by decide) rfl)⟩
  | .noteOn _, _ => ⟨.noteOn, congrArg Instr.noteOn (argField_encode (by decide) rfl)⟩
  | .noteOff, _ => ⟨.noteOff, rfl⟩
  | .filterReset, _ => ⟨.filterReset, rfl⟩
  | .read _, _ => ⟨.read, congrArg Instr.read (argField_encode (by decide) rfl)⟩
  | .tick, h => absurd rfl h

/-- The rows read commands only; TICK has no row on the command port. -/
theorem Opcode.operands_ne_tick (o : Opcode) (w : Word) : o.operands w ≠ .tick := by
  cases o <;> simp [Opcode.operands]

/-- R88: the words that decode to an instruction are those that encode it, and none decodes to TICK. -/
theorem decodeWord_eq_instr_iff_encode {w : Word} {i : Instr} :
    decodeWord w = .instr i ↔ encode i = w ∧ i ≠ .tick := by
  rw [decodeWord_eq_instr_iff]
  constructor
  · rintro ⟨o, ho, rfl⟩
    exact ⟨accept_eq_ok_iff_encode.1 ho, o.operands_ne_tick w⟩
  · rintro ⟨rfl, hi⟩
    obtain ⟨o, ho⟩ := exists_operands_encode hi
    exact ⟨o, accept_eq_ok_iff_encode.2 (congrArg encode ho), ho⟩

/-- R86: the command port rejects the word of TICK. -/
theorem decodeWord_tickWord : decodeWord tickWord = .rejected .wrongPort tickWord :=
  decodeWord_eq_rejected_iff.2 (accept_of_tickOp (by decide))

/-- R63, R81: a line of four bytes of a mixed trace. -/
theorem decodeTrace_bytesOfWord (w : Word) :
    decodeTrace (bytesOfWord w) = if w = tickWord then .instr .tick else decodeWord w := by
  simp [decodeTrace]

/-- R81: only TICK has the word of TICK. -/
theorem encode_ne_tickWord {i : Instr} (h : i ≠ .tick) : encode i ≠ tickWord := by
  intro hword
  have hdec := decodeWord_eq_instr_iff_encode.2 ⟨hword, h⟩
  rw [decodeWord_tickWord] at hdec
  cases hdec

/-! ### The rows as the table of widths -/

/-- The table of the statement O4 is the rows with their widths. -/
theorem formatWidths_eq : formatWidths = Opcode.all.map fun o => (o.code.toNat, o.width) := rfl

theorem Opcode.mem_all (o : Opcode) : o ∈ Opcode.all := by cases o <;> decide

/-- What holds of some entry of the table holds of some row. -/
theorem exists_mem_formatWidths_iff {P : Nat × Nat → Prop} :
    (∃ p ∈ formatWidths, P p) ↔ ∃ o : Opcode, P (o.code.toNat, o.width) := by
  simp [formatWidths_eq, Opcode.mem_all]

end Sys2Proof

open Sys2Proof Sys2Proof.Machine

/-- Settles O2: the rows read every command back from its word (`exists_operands_encode`), and a row accepts the words
that encode what it reads. In a mixed trace TICK's word is TICK, and no command has that word. -/
theorem decodeOfEncode : Obligations.DecodeOfEncode := by
  have hport (i : Instr) (hi : i ≠ .tick) : decodeWord (encode i) = .instr i :=
    decodeWord_eq_instr_iff_encode.2 ⟨rfl, hi⟩
  refine ⟨fun i hi => ?_, fun i => ?_, ?_⟩
  · exact (decodeBytes_bytesOfWord _).trans (hport i hi)
  · rw [encodeBytes, decodeTrace_bytesOfWord]
    by_cases hi : i = .tick
    · rw [hi]
      rfl
    · rw [if_neg (encode_ne_tickWord hi), hport i hi]
  · exact (decodeBytes_bytesOfWord _).trans decodeWord_tickWord

/-- Settles O3: an accepted word is the encoding of what its row reads. -/
theorem legalSpellingIsUnique : Obligations.LegalSpellingIsUnique :=
  fun _ _ h => decodeWord_eq_instr_iff_encode.1 h

/-- Settles O4: the four answers of `accept`, each with the words that get it. -/
theorem acceptanceOfEveryWord : Obligations.AcceptanceOfEveryWord := by
  refine ⟨fun w => ⟨?_, ?_, ?_, ?_⟩, fun _ _ => Opcode.code_injective, Opcode.mask_and_opBits⟩
  · simp only [exists_mem_formatWidths_iff, ← accept_eq_ok_iff_toNat, decodeWord_eq_instr_iff]
    exact ⟨fun ⟨_, o, ho, _⟩ => ⟨o, ho⟩, fun ⟨o, ho⟩ => ⟨_, o, ho, rfl⟩⟩
  · rw [exists_mem_formatWidths_iff, decodeWord_eq_rejected_iff, accept_eq_reservedBits_iff]
  · rw [decodeWord_eq_rejected_iff, accept_eq_illegalOp_iff, unassigned_iff, opField_toNat]
  · rw [decodeWord_eq_rejected_iff, accept_eq_wrongPort_iff, ← BitVec.toNat_inj, opField_toNat]
    rfl

/-- Settles O5: NOP has the one spelling 0, by R88; any other word of OP 0 has a reserved bit of NOP's row set. -/
theorem nopIsTheOnlyNoOperation : Obligations.NopIsTheOnlyNoOperation := by
  refine ⟨fun w => ?_, fun w hlt hne => ?_, fun _ => rfl⟩
  · have hnop : encode .nop = 0#32 := rfl
    rw [decodeWord_eq_instr_iff_encode, hnop, eq_comm]
    exact and_iff_left (by decide)
  · have hpos : w.toNat ≠ 0 := fun h => hne (BitVec.eq_of_toNat_eq h)
    refine decodeWord_eq_rejected_iff.2 (accept_eq_reservedBits_iff.2 ⟨.nop, Nat.div_eq_of_lt hlt, ?_⟩)
    rw [Nat.mod_eq_of_lt hlt]
    exact Nat.one_le_iff_ne_zero.2 hpos

/-- Settles O1: each word is the encoding of its command, and a word decodes to what it encodes. -/
theorem commandWordsDecode : Obligations.CommandWordsDecode := by
  unfold Obligations.CommandWordsDecode
  simp only [decodeWord_eq_instr_iff_encode, decodeTrace_bytesOfWord]
  decide

/-- Settles O6, by evaluating the assembler on each text. -/
theorem assemblerExamples : Obligations.AssemblerExamples := by
  unfold Obligations.AssemblerExamples
  decide
end

section
/-! PROOFS, family 40_oscillator: the two commands, the phase and the waveforms (R100 to R115). -/

namespace Sys2Proof.Machine

open Sys2Proof

/-! ### The phase increment (R100) -/

@[simp] theorem phaseInc_zero (sr : Nat) : phaseInc sr 0 = 0 := if_pos rfl

/-- R100: the increment of every frequency but 0. -/
theorem phaseInc_of_ne_zero (sr : Nat) {f : Nat} (h : f ≠ 0) :
    phaseInc sr f = min (f * 2 ^ 32 / sr) (2 ^ 32 - 1) :=
  if_neg h

theorem phaseInc_lt (sr f : Nat) : phaseInc sr f < 2 ^ 32 := by
  unfold phaseInc
  split <;> omega

/-- R100: below SR the clamp does nothing. -/
theorem phaseInc_of_lt {sr f : Nat} (h : f < sr) : phaseInc sr f = f * 2 ^ 32 / sr := by
  obtain rfl | hf := eq_or_ne f 0
  · simp
  · have hlt : f * 2 ^ 32 / sr < 2 ^ 32 := (Nat.div_lt_iff_lt_mul (by omega)).2 (by omega)
    rw [phaseInc_of_ne_zero sr hf]
    omega

/-- R100: from SR on the increment is clamped. -/
theorem phaseInc_of_le {sr f : Nat} (hsr : 1 ≤ sr) (h : sr ≤ f) : phaseInc sr f = 2 ^ 32 - 1 := by
  have hle : 2 ^ 32 ≤ f * 2 ^ 32 / sr := (Nat.le_div_iff_mul_le hsr).2 (by omega)
  rw [phaseInc_of_ne_zero sr (by omega)]
  omega

/-- R100: 2^32 is more than 256 times SR, so a frequency one higher has an increment at least 256 higher. -/
theorem phaseInc_add_le_succ {sr f : Nat} (hsr : sr < 2 ^ 24) (h : f + 1 < sr) :
    phaseInc sr f + 256 ≤ phaseInc sr (f + 1) := by
  rw [phaseInc_of_lt h, phaseInc_of_lt (by omega)]
  calc f * 2 ^ 32 / sr + 256 = (f * 2 ^ 32 + 256 * sr) / sr := (Nat.add_mul_div_right _ _ (by omega)).symm
    _ ≤ (f + 1) * 2 ^ 32 / sr := Nat.div_le_div_right (by omega)

/-- R100: the period of the increment is at least that of the frequency. -/
theorem mul_phaseInc_le (sr f : Nat) : sr * phaseInc sr f ≤ f * 2 ^ 32 := by
  obtain rfl | hf := eq_or_ne f 0
  · simp
  · rw [phaseInc_of_ne_zero sr hf]
    exact (Nat.mul_le_mul_left sr (min_le_left _ _)).trans (Nat.mul_div_le _ _)

/-- R100: the period is less than one tick too long when the increment, of at least `f * k`, makes up for the rounding:
`f` ticks of it are at least SR. -/
theorem lt_add_mul_phaseInc {sr f k : Nat} (hsr : 1 ≤ sr) (hf : f < 2 ^ 24) (hk : k * sr ≤ 2 ^ 32)
    (h : sr ≤ f * (f * k)) : f * 2 ^ 32 < (sr + f) * phaseInc sr f := by
  obtain hlt | hle := lt_or_ge f sr
  · have hinc : f * k ≤ phaseInc sr f := by
      rw [phaseInc_of_lt hlt, Nat.le_div_iff_mul_le hsr, mul_assoc]
      exact Nat.mul_le_mul_left f hk
    have hround : f * 2 ^ 32 < sr * (phaseInc sr f + 1) := by
      rw [phaseInc_of_lt hlt]
      exact Nat.lt_mul_div_succ _ hsr
    have hmul : sr ≤ f * phaseInc sr f := h.trans (Nat.mul_le_mul_left f hinc)
    linarith
  · rw [phaseInc_of_le hsr hle]
    omega

/-! ### A trace of pulses (R103, R105, R115) -/

/-- R103, R105: what TICK does to the oscillator, whatever the other units do. -/
theorem execTick_oscillator {s t : State} (h : execTick s = .next t) :
    t.regs.phaseAcc = phaseAdvance s.regs.phaseAcc s.regs.phaseInc ∧ t.regs.phaseInc = s.regs.phaseInc ∧
      t.regs.noiseLfsr = lfsrStep s.regs.noiseLfsr := by
  obtain ⟨raw, env, -, -, rfl⟩ := execTick_next h
  exact ⟨rfl, rfl, rfl⟩

/-- R48: in the invariant both selectors of TICK have a meaning. -/
theorem State.Inv.selectors_le {s : State} (h : s.Inv) :
    s.regs.waveSel.toNat ≤ 4 ∧ s.regs.envState.toNat ≤ 4 := by
  obtain ⟨-, -, -, -, -, hwave, hstate, -, -⟩ := h
  exact ⟨hwave, hstate⟩

/-- R48: from the invariant, the first of the pulses to come is a TICK that completes and leaves the others to come. -/
theorem step_withTicks_succ {s : State} (h : s.Inv) (n : Nat) :
    ∃ t : State, step (s.withTicks (n + 1)) = .next (t.withTicks n) ∧
      execTick (s.withTicks n) = .next (t.withTicks n) := by
  obtain ⟨t, ht⟩ := (execTick_completes_iff (s.withTicks n)).2 (State.Inv.selectors_le h)
  have htrace : t.withTicks n = t := State.ext_fields rfl rfl (exec_pending (i := .tick) ht).symm rfl
  refine ⟨t, ?_, by rw [htrace]; exact ht⟩
  rw [htrace]
  exact (step_of_run (s := s.withTicks (n + 1)) h (nextAction_withTicks_succ s n)).trans ht

/-! ### Which selectors TICK stops on (R106, R48) -/

/-- R106: the selectors that have a raw sample. -/
theorem rawSample_isSome_iff (r : Regs) : (rawSample r).isSome ↔ r.waveSel.toNat ≤ 4 :=
  wave_isSome_iff _ _ _

/-- R106: without a waveform TICK faults, before it comes to the envelope. -/
theorem execTick_of_rawSample_none {s : State} (h : rawSample s.regs = none) :
    execTick s = .fault .illegalWaveSel := by
  simp only [execTick, h]

/-- R48: without an envelope step TICK is refused. -/
theorem execTick_of_envProcess_none {s : State} {raw : Int} (hraw : rawSample s.regs = some raw)
    (h : envProcess s.regs = none) : execTick s = .refused .unreachableState := by
  simp only [execTick, hraw, h]

/-! ### The sine ROM (R62, R109) -/

/-- R62: every index reads an entry of the table. -/
theorem sineRom_mem (i : BitVec 8) : sineRom i ∈ sineTable := by
  have hlength : sineTable.length = 256 := by decide +kernel
  have hi : i.toNat < sineTable.length := by omega
  unfold sineRom
  rw [List.getD_eq_getElem _ _ hi]
  exact List.getElem_mem hi

/-- R114: the entries of the sine ROM. -/
theorem sineRom_bounds (i : BitVec 8) : -32767 ≤ sineRom i ∧ sineRom i ≤ 32767 :=
  (by decide +kernel : ∀ v ∈ sineTable, -32767 ≤ v ∧ v ≤ 32767) _ (sineRom_mem i)

/-- R109: the second quarter wave is the first one backwards. -/
theorem sineRom_mirror {i : Nat} (h₁ : 1 ≤ i) (h₂ : i ≤ 127) :
    sineRom (BitVec.ofNat 8 i) = sineRom (BitVec.ofNat 8 (128 - i)) :=
  (by decide +kernel : ∀ j < 128, 1 ≤ j → sineRom (BitVec.ofNat 8 j) = sineRom (BitVec.ofNat 8 (128 - j)))
    i (by omega) h₁

/-- R109: the second half wave is the first one negated. -/
theorem sineRom_add_half {i : Nat} (h : i ≤ 127) :
    sineRom (BitVec.ofNat 8 (i + 128)) = -sineRom (BitVec.ofNat 8 i) :=
  (by decide +kernel : ∀ j < 128, sineRom (BitVec.ofNat 8 (j + 128)) = -sineRom (BitVec.ofNat 8 j)) i (by omega)

/-! ### The other waveforms (R111 to R113) -/

/-- R111: 65535 is 257 times 255, so the steps of the saw are equal. -/
theorem saw_eq (idx : Nat) : saw idx = 257 * idx - 32768 := by
  unfold saw fdiv
  omega

/-- R112: the first half of the triangle rises; `fdiv` rounds each value down. -/
theorem triangle_rising {idx : Nat} (h : idx < 128) :
    127 * (triangle idx + 32768) ≤ idx * 65535 ∧ (idx * 65535 : Int) < 127 * (triangle idx + 32769) := by
  obtain ⟨hlo, hhi⟩ := fdiv_spec (a := idx * 65535) (b := 127) (by decide)
  simp only [triangle, h, if_true]
  omega

/-- R112: the second half of the triangle is the first one backwards. -/
theorem triangle_mirror {idx : Nat} (h : idx ≤ 255) : triangle (255 - idx) = triangle idx := by
  have hv : (if 255 - idx < 128 then ((255 - idx : Nat) : Int) else 255 - (255 - idx : Nat)) =
      if idx < 128 then (idx : Int) else 255 - idx := by split_ifs <;> omega
  simp only [triangle, hv]

/-- R114: the range of the triangle. -/
theorem triangle_bounds {idx : Nat} (h : idx ≤ 255) : -32768 ≤ triangle idx ∧ triangle idx ≤ 32767 := by
  wlog hlt : idx < 128 generalizing idx
  · rw [← triangle_mirror h]
    exact this (by omega) (by omega)
  · obtain ⟨hlo, hhi⟩ := triangle_rising hlt
    omega

/-- R113: the noise is the LFSR in two's complement. -/
theorem noise_eq_toInt (l : BitVec 16) : noise l = l.toInt := by
  rw [BitVec.toInt_eq_toNat_cond]
  unfold noise u16ToS16
  split_ifs <;> omega

/-- R106: the waveform behind each value that `wave` answers. -/
theorem wave_eq_some {sel : BitVec 3} {idx : BitVec 8} {l : BitVec 16} {y : Int} (h : wave sel idx l = some y) :
    (sel = 0#3 ∧ y = sineRom idx) ∨ (sel = 1#3 ∧ y = square idx.toNat) ∨ (sel = 2#3 ∧ y = saw idx.toNat) ∨
      (sel = 3#3 ∧ y = triangle idx.toNat) ∨ (sel = 4#3 ∧ y = noise l) := by
  have hsel {n : Nat} (hn : sel.toNat = n) : sel = BitVec.ofNat 3 n := by
    rw [← hn, BitVec.ofNat_toNat, BitVec.setWidth_eq]
  unfold wave at h
  split at h <;> cases h <;> simp [hsel (by assumption)]

end Sys2Proof.Machine

open Sys2Proof Sys2Proof.Machine

/-- Settles O7: the increment fits PHASE_INC, so the register holds it unchanged. -/
theorem setFreqResult : Obligations.SetFreqResult := by
  intro v s
  refine ⟨by simp [encode_toNat, Laws.Spelling.opcode, Instr.arg], fun hv hsr => ?_, rfl⟩
  have hne : v.toNat ≠ 0 := fun h => hv (BitVec.eq_of_toNat_eq h)
  refine ⟨BitVec.ofNat 32 (phaseInc s.config.sampleRate v.toNat), ?_, fun hle => ?_, fun h₁ h₂ => ?_, if_pos hv⟩
  · rw [BitVec.toNat_ofNat, Nat.mod_eq_of_lt (phaseInc_lt _ _), phaseInc_of_ne_zero _ hne]
  · rw [phaseInc_of_le hsr hle]
    rfl
  · rw [h₁, h₂]
    decide

/-- Settles O20: below SR the increment is a quotient of 2^32 by SR, from SR on it is the clamp. An increment is at
least 65536 times the frequency for SR up to 65536 and at least 53687 times it for SR up to 80000. -/
theorem phaseIncrementLaws : Obligations.PhaseIncrementLaws := by
  intro sr hsr hsr'
  refine ⟨phaseInc_zero sr, fun f _ hf => phaseInc_of_lt hf, fun f _ hf => phaseInc_add_le_succ hsr' hf,
    fun f hf => phaseInc_of_le hsr hf, fun f hf hf' hcase => ⟨mul_phaseInc_le sr f, ?_⟩, by decide⟩
  obtain hsmall | ⟨hf₂, hsmall⟩ := hcase
  · exact lt_add_mul_phaseInc (k := 65536) hsr hf' (by omega) (by nlinarith)
  · exact lt_add_mul_phaseInc (k := 53687) hsr hf' (by omega) (by nlinarith)

/-- Settles O27, by induction on the pulses: one TICK adds the increment, modulo 2^32, and steps the noise. -/
theorem phaseAfterTicks : Obligations.PhaseAfterTicks := by
  intro s n
  induction n generalizing s with
  | zero =>
    intro _
    exact ⟨s.withTicks 0, rfl, by simp [State.withTicks, Nat.mod_eq_of_lt s.regs.phaseAcc.isLt], rfl⟩
  | succ n ih =>
    intro hs
    obtain ⟨t, hstep, htick⟩ := step_withTicks_succ hs n
    obtain ⟨hacc, hinc, hnoise⟩ : t.regs.phaseAcc = phaseAdvance s.regs.phaseAcc s.regs.phaseInc ∧
        t.regs.phaseInc = s.regs.phaseInc ∧ t.regs.noiseLfsr = lfsrStep s.regs.noiseLfsr :=
      execTick_oscillator (s := s.withTicks n) (t := t.withTicks n) htick
    obtain ⟨u, hrun, hphase, hlfsr⟩ := ih t (step_inv hstep : (t.withTicks n).Inv)
    refine ⟨u, (runSteps_succ_of n hstep).trans hrun, ?_, ?_⟩
    · rw [hphase, hacc, hinc, phaseAdvance, BitVec.toNat_add, Nat.mod_add_mod, Nat.succ_mul]
      congr 1
      omega
    · rw [hlfsr, hnoise]
      rfl

/-- Settles O24, by waveform. -/
theorem waveformRange : Obligations.WaveformRange := by
  intro sel idx l y h
  obtain ⟨rfl, rfl⟩ | ⟨rfl, rfl⟩ | ⟨rfl, rfl⟩ | ⟨rfl, rfl⟩ | ⟨rfl, rfl⟩ := wave_eq_some h
  · obtain ⟨hlo, hhi⟩ := sineRom_bounds idx
    exact ⟨fun _ => ⟨hlo, hhi⟩, by simp, by simp, by omega, hhi⟩
  · have hsquare : square idx.toNat = -32768 ∨ square idx.toNat = 32767 := by
      unfold square
      split_ifs <;> simp
    exact ⟨by simp, fun _ => hsquare, by simp, by omega, by omega⟩
  · have hsaw := saw_eq idx.toNat
    exact ⟨by simp, by simp, by simp, by omega, by omega⟩
  · obtain ⟨hlo, hhi⟩ := triangle_bounds (idx := idx.toNat) (by omega)
    exact ⟨by simp, by simp, by simp, hlo, hhi⟩
  · have hlo := l.le_toInt
    have hhi := l.toInt_lt
    rw [noise_eq_toInt]
    exact ⟨by simp, by simp, fun _ hl h => hl (BitVec.eq_of_toInt_eq h), by omega, by omega⟩

/-- Settles O8: the selectors that fail the range check are 5, 6 and 7. -/
theorem setWaveResult : Obligations.SetWaveResult := by
  intro v s
  refine ⟨by simp [encode_toNat, Laws.Spelling.opcode, Instr.arg], ?_⟩
  have hrange : ¬ waveInRange v ↔ v = 5#3 ∨ v = 6#3 ∨ v = 7#3 := by decide +revert
  simp only [← hrange, ite_not]
  rfl

/-- Settles O19: the fault comes from the raw sample, the refusal from the envelope. -/
theorem tickStopsOnIllegalSelectors : Obligations.TickStopsOnIllegalSelectors := by
  intro s
  refine ⟨fun hwave => ?_, fun hwave hstate => ?_,
    fun hwave hstate => (execTick_completes_iff s).2 ⟨hwave, hstate⟩⟩
  · refine execTick_of_rawSample_none (Option.not_isSome_iff_eq_none.1 fun h => ?_)
    exact absurd ((rawSample_isSome_iff s.regs).1 h) (by omega)
  · obtain ⟨raw, hraw⟩ := Option.isSome_iff_exists.1 ((rawSample_isSome_iff s.regs).2 hwave)
    refine execTick_of_envProcess_none hraw (Option.not_isSome_iff_eq_none.1 fun h => ?_)
    exact absurd ((envProcess_isSome_iff s.regs).1 h) (by omega)

/-- Settles O22: the first quarter wave and the peaks by reading the table, the rest by its symmetries. -/
theorem sineRomSymmetry : Obligations.SineRomSymmetry :=
  ⟨by decide +kernel, fun _ => sineRom_mirror, fun _ => sineRom_add_half, by decide +kernel⟩

/-- Settles O23: each waveform by its formula. -/
theorem algebraicWaveforms : Obligations.AlgebraicWaveforms := by
  intro idx l
  have hmirror : (255#8 - idx).toNat = 255 - idx.toNat :=
    BitVec.toNat_sub_of_le (BitVec.le_def.2 (by simp; omega))
  refine ⟨rfl, rfl, congrArg some (saw_eq _), ⟨_, rfl, ?_, triangle_rising⟩,
    congrArg some (noise_eq_toInt l)⟩
  show some (triangle (255#8 - idx).toNat) = _
  rw [hmirror, triangle_mirror (by omega)]
end

section
/-! PROOFS, family 40_oscillator: the noise LFSR (R105). Its step is the multiplication by x in a ring of polynomials.
The order of x there is 65535, so its powers are all the values but 0. -/

namespace Sys2Proof.Machine

open Sys2Proof

/-! ### The step as a multiplication (R105)

A state stands for a polynomial over GF(2), bit 15 - i for the coefficient of x^i; a step multiplies it by x, modulo
x^16 + x^5 + x^3 + x^2 + 1, the polynomial of the taps. So `lfsrStep^[n] lfsrOne` is the power x^n, and a high power
comes from a few products instead of its steps. -/

/-- R105: the bit shifted out decides whether the taps come in. -/
theorem lfsrStep_eq_xor (l : BitVec 16) :
    lfsrStep l = l >>> 1 ^^^ (if l.getLsbD 0 then Config.lfsrTaps else 0#16) := by
  unfold lfsrStep
  split <;> simp

/-- A step is linear. -/
theorem lfsrStep_xor (a b : BitVec 16) : lfsrStep (a ^^^ b) = lfsrStep a ^^^ lfsrStep b := by
  have htaps (p q : Bool) (t : BitVec 16) :
      (if (p ^^ q) then t else 0#16) = (if p then t else 0#16) ^^^ (if q then t else 0#16) := by
    cases p <;> cases q <;> simp
  rw [lfsrStep_eq_xor, lfsrStep_eq_xor a, lfsrStep_eq_xor b, BitVec.getLsbD_xor, htaps,
    BitVec.ushiftRight_xor_distrib]
  ac_rfl

theorem lfsrStep_zero : lfsrStep 0#16 = 0#16 := by decide

/-- The polynomial 1. -/
def lfsrOne : BitVec 16 := 0x8000#16

/-- Horner's rule for the product of `c` and `b`, as far as the coefficients in the low `k` bits of `c`, which are the
highest ones. -/
def lfsrHorner (c b : BitVec 16) : Nat → BitVec 16
  | 0 => 0#16
  | k + 1 => lfsrStep (lfsrHorner c b k) ^^^ if c.getLsbD k then b else 0#16

/-- The product of two polynomials. -/
def lfsrMul (c b : BitVec 16) : BitVec 16 := lfsrHorner c b 16

theorem lfsrHorner_step (c b : BitVec 16) (k : Nat) :
    lfsrHorner c (lfsrStep b) k = lfsrStep (lfsrHorner c b k) := by
  induction k with
  | zero => exact lfsrStep_zero.symm
  | succ k ih =>
    rw [lfsrHorner, lfsrHorner, ih, lfsrStep_xor]
    split <;> simp [lfsrStep_zero]

/-- A factor of x can be taken out of a product. -/
theorem lfsrMul_iterate (c b : BitVec 16) (n : Nat) : lfsrMul c (lfsrStep^[n] b) = lfsrStep^[n] (lfsrMul c b) :=
  Function.Semiconj.iterate_right (fun b => lfsrHorner_step c b 16) n b

theorem ite_lfsrOne_getLsbD (b : Bool) (i : Nat) :
    (if b then lfsrOne else 0#16).getLsbD i = (b && decide (15 = i)) := by
  have hone : lfsrOne = BitVec.twoPow 16 15 := rfl
  cases b <;> simp [hone, BitVec.getLsbD_twoPow]

/-- Horner's rule with the factor 1 moves the coefficients up to their places; no bit is shifted out on the way. -/
theorem lfsrHorner_one (c : BitVec 16) {k : Nat} (hk : k ≤ 16) : lfsrHorner c lfsrOne k = c <<< (16 - k) := by
  induction k with
  | zero => simp [lfsrHorner]
  | succ k ih =>
    have hlow : (c <<< (16 - k)).getLsbD 0 = false := by simp; omega
    rw [lfsrHorner, ih (by omega), lfsrStep_eq_xor, hlow]
    apply BitVec.eq_of_getLsbD_eq
    intro i hi
    simp only [Bool.false_eq_true, if_false, BitVec.xor_zero, BitVec.getLsbD_xor, BitVec.getLsbD_ushiftRight,
      BitVec.getLsbD_shiftLeft, ite_lfsrOne_getLsbD]
    obtain rfl | hlt : i = 15 ∨ i < 15 := by omega
    · have hlast : 15 - (16 - (k + 1)) = k := by omega
      rw [hlast]
      simp
    · have hpos : 1 + i - (16 - k) = i - (16 - (k + 1)) := by omega
      have hbits : 1 + i < 16 - k ↔ i < 16 - (k + 1) := by omega
      have hin : 1 + i < 16 := by omega
      simp [hpos, hbits, hin, hi, hlt.ne']

theorem lfsrMul_one (c : BitVec 16) : lfsrMul c lfsrOne = c :=
  (lfsrHorner_one c le_rfl).trans (by simp)

/-- x^(m + n) is the product of x^m and x^n. -/
theorem lfsrMul_pow (m n : Nat) :
    lfsrMul (lfsrStep^[m] lfsrOne) (lfsrStep^[n] lfsrOne) = lfsrStep^[m + n] lfsrOne := by
  rw [lfsrMul_iterate, lfsrMul_one, ← Function.iterate_add_apply, Nat.add_comm]

/-- The square of a polynomial; `k` of them raise x^n to the power 2^k (`lfsrSquare_iterate_pow`). -/
def lfsrSquare (p : BitVec 16) : BitVec 16 := lfsrMul p p

theorem lfsrSquare_iterate_pow (n k : Nat) :
    lfsrSquare^[k] (lfsrStep^[n] lfsrOne) = lfsrStep^[n * 2 ^ k] lfsrOne := by
  induction k with
  | zero => simp
  | succ k ih => rw [Function.iterate_succ_apply', ih, lfsrSquare, lfsrMul_pow, ← Nat.mul_two, pow_succ, mul_assoc]

/-- x^(n * (2^k + 1)) from x^n, by `k` squarings and one product. -/
theorem lfsr_pow_mul_succ {n : Nat} {p : BitVec 16} (hp : lfsrStep^[n] lfsrOne = p) (k : Nat) :
    lfsrStep^[n * (2 ^ k + 1)] lfsrOne = lfsrMul (lfsrSquare^[k] p) p := by
  rw [← hp, lfsrSquare_iterate_pow, lfsrMul_pow, Nat.mul_succ]

/-! ### The order of x

65535 is 3 * 5 * 17 * 257, and each factor is a power of 2 and 1. -/

theorem lfsr_pow_15 : lfsrStep^[15] lfsrOne = 0x0001#16 := by decide +kernel

theorem lfsr_pow_51 : lfsrStep^[51] lfsrOne = 0x8EB7#16 :=
  (lfsr_pow_mul_succ (n := 3) rfl 4).trans (by decide +kernel)

theorem lfsr_pow_85 : lfsrStep^[85] lfsrOne = 0xCF70#16 :=
  (lfsr_pow_mul_succ (n := 5) rfl 4).trans (by decide +kernel)

theorem lfsr_pow_255 : lfsrStep^[255] lfsrOne = 0xA300#16 :=
  (lfsr_pow_mul_succ lfsr_pow_15 4).trans (by decide +kernel)

theorem lfsr_pow_3855 : lfsrStep^[3855] lfsrOne = 0x2D35#16 :=
  (lfsr_pow_mul_succ lfsr_pow_15 8).trans (by decide +kernel)

theorem lfsr_pow_13107 : lfsrStep^[13107] lfsrOne = 0x5F61#16 :=
  (lfsr_pow_mul_succ lfsr_pow_51 8).trans (by decide +kernel)

theorem lfsr_pow_21845 : lfsrStep^[21845] lfsrOne = 0x5335#16 :=
  (lfsr_pow_mul_succ lfsr_pow_85 8).trans (by decide +kernel)

theorem lfsr_pow_65535 : lfsrStep^[65535] lfsrOne = lfsrOne :=
  (lfsr_pow_mul_succ lfsr_pow_255 8).trans (by decide +kernel)

/-- A period is minimal when no division of it by a prime leaves a period. -/
theorem minimalPeriod_eq_of_prime_div {α : Type} {f : α → α} {x : α} {n : Nat} (hn : Function.IsPeriodicPt f n x)
    (h : ∀ p, p.Prime → p ∣ n → ¬ Function.IsPeriodicPt f (n / p) x) : Function.minimalPeriod f x = n := by
  obtain ⟨k, hk⟩ := hn.minimalPeriod_dvd
  by_contra hne
  have hk₁ : k ≠ 1 := fun hk₁ => hne (by rw [hk, hk₁, mul_one])
  have hd := Nat.minFac_dvd k
  refine h _ (Nat.minFac_prime hk₁) (by rw [hk]; exact hd.mul_left _) ?_
  rw [hk, Nat.mul_div_assoc _ hd]
  exact (Function.isPeriodicPt_minimalPeriod f x).mul_const _

theorem eq_of_prime_dvd_65535 {p : Nat} (hp : p.Prime) (h : p ∣ 65535) : p = 3 ∨ p = 5 ∨ p = 17 ∨ p = 257 := by
  have hfactors : 65535 = 3 * (5 * (17 * 257)) := rfl
  rw [hfactors, hp.dvd_mul, hp.dvd_mul, hp.dvd_mul] at h
  simpa only [Nat.prime_dvd_prime_iff_eq hp Nat.prime_three, Nat.prime_dvd_prime_iff_eq hp Nat.prime_five,
    Nat.prime_dvd_prime_iff_eq hp (by norm_num : Nat.Prime 17),
    Nat.prime_dvd_prime_iff_eq hp (by norm_num : Nat.Prime 257)] using h

/-- R105: the powers of x come back to 1 after 65535 steps and not before. -/
theorem minimalPeriod_lfsrStep : Function.minimalPeriod lfsrStep lfsrOne = 65535 := by
  refine minimalPeriod_eq_of_prime_div lfsr_pow_65535 fun p hp hdvd => ?_
  obtain rfl | rfl | rfl | rfl := eq_of_prime_dvd_65535 hp hdvd
  · exact fun h => absurd (lfsr_pow_21845.symm.trans h) (by decide)
  · exact fun h => absurd (lfsr_pow_13107.symm.trans h) (by decide)
  · exact fun h => absurd (lfsr_pow_3855.symm.trans h) (by decide)
  · exact fun h => absurd (lfsr_pow_255.symm.trans h) (by decide)

/-- R105: no power of x is 0. -/
theorem lfsrStep_iterate_ne_zero (n : Nat) : lfsrStep^[n] lfsrOne ≠ 0#16 := by
  induction n with
  | zero => decide
  | succ n ih =>
    rw [Function.iterate_succ_apply']
    exact lfsrStep_ne_zero ih

/-- R105: the 65535 powers of x are all the values but 0, since they differ. -/
theorem exists_lfsrStep_iterate_eq {l : BitVec 16} (h : l ≠ 0#16) : ∃ n < 65535, lfsrStep^[n] lfsrOne = l := by
  have hpos {m : BitVec 16} (hm : m ≠ 0#16) : 0 < m.toNat :=
    Nat.pos_of_ne_zero fun h => hm (BitVec.eq_of_toNat_eq h)
  have hmaps : Set.MapsTo (fun n => (lfsrStep^[n] lfsrOne).toNat) (Finset.range 65535) (Finset.Ioo 0 65536) :=
    fun n _ => Finset.mem_Ioo.2 ⟨hpos (lfsrStep_iterate_ne_zero n), BitVec.isLt _⟩
  have hinj : Set.InjOn (fun n => (lfsrStep^[n] lfsrOne).toNat) (Finset.range 65535) := by
    rw [Finset.coe_range, ← minimalPeriod_lfsrStep]
    exact fun m hm n hn hmn => Function.iterate_injOn_Iio_minimalPeriod hm hn (BitVec.eq_of_toNat_eq hmn)
  obtain ⟨n, hn, hnl⟩ :=
    Finset.surjOn_of_injOn_of_card_le _ hmaps hinj (by simp) (Finset.mem_Ioo.2 ⟨hpos h, l.isLt⟩)
  exact ⟨n, Finset.mem_range.1 hn, BitVec.eq_of_toNat_eq hnl⟩

/-- R105: the noise repeats after 65535 steps. -/
theorem lfsrStep_isPeriodicPt {l : BitVec 16} (h : l ≠ 0#16) : Function.IsPeriodicPt lfsrStep 65535 l := by
  obtain ⟨n, -, rfl⟩ := exists_lfsrStep_iterate_eq h
  exact (show Function.IsPeriodicPt lfsrStep 65535 lfsrOne from lfsr_pow_65535).apply_iterate n

/-- R105: the step in numbers. -/
theorem lfsrStep_toNat (l : BitVec 16) :
    (lfsrStep l).toNat = if l.toNat % 2 = 1 then (l.toNat / 2) ^^^ 0xB400 else l.toNat / 2 := by
  have hbit : l.getLsbD 0 = decide (l.toNat % 2 = 1) := Nat.testBit_zero _
  simp only [lfsrStep, hbit, decide_eq_true_eq]
  split <;> simp [Nat.shiftRight_eq_div_pow, Config.lfsrTaps]

end Sys2Proof.Machine

open Sys2Proof Sys2Proof.Machine

/-- Settles O21: every non-zero value is a power of x, and x has the order 65535; from the power x^a the power x^b is
reached in b - a steps, or after the wrap in 65535 + b - a. -/
theorem noiseVisitsEveryNonzeroState : Obligations.NoiseVisitsEveryNonzeroState := by
  refine ⟨lfsrStep_toNat, fun l m hl hm => ?_, fun _ => lfsrStep_isPeriodicPt⟩
  obtain ⟨a, ha, rfl⟩ := exists_lfsrStep_iterate_eq hl
  obtain ⟨b, -, rfl⟩ := exists_lfsrStep_iterate_eq hm
  have hsteps : 65535 - a + b + a = b + 65535 := by omega
  refine ⟨(65535 - a + b) % 65535, Nat.mod_lt _ (by decide), ?_⟩
  rw [(lfsrStep_isPeriodicPt hl).iterate_mod_apply, ← Function.iterate_add_apply, hsteps, Function.iterate_add_apply,
    lfsr_pow_65535]
end

section
/-! PROOFS, family 40_oscillator: the sine ROM against the sine (R108). The sine of index n is the imaginary part of
e^(π i / 128) to the power n. A rational number near e^(π i / 128) takes its place: its powers are computed exactly and
compared with the first quarter wave of the table, and the distance of the powers is bounded. The symmetries of the
table and of the sine give the rest. -/

namespace Sys2Proof.Machine

open Sys2Proof

/-! ### A rational rotation by the angle of one index -/

/-- The real and the imaginary part of (999698818 + 24541228 i)^n, a power of e^(π i / 128) in units of 10^-9. -/
def rotor : Nat → Int × Int
  | 0 => (1, 0)
  | n + 1 =>
    ((rotor n).1 * 999698818 - (rotor n).2 * 24541228, (rotor n).1 * 24541228 + (rotor n).2 * 999698818)

/-- The rational number whose powers `rotor` holds, e^(π i / 128) cut off after nine places. -/
noncomputable def rotation : ℂ := ⟨999698818 / 10 ^ 9, 24541228 / 10 ^ 9⟩

/-- `rotor` is the power of `rotation`, scaled to integers. -/
theorem rotor_eq (n : Nat) : (⟨(rotor n).1, (rotor n).2⟩ : ℂ) = (10 ^ (9 * n) : ℝ) • rotation ^ n := by
  induction n with
  | zero => simp [rotor, Complex.ext_iff]
  | succ n ih =>
    have hunit : (10 ^ 9 : ℝ) • rotation = ⟨999698818, 24541228⟩ := by
      apply Complex.ext <;> norm_num [rotation, Complex.smul_re, Complex.smul_im, -Complex.real_smul]
    rw [Nat.mul_succ, pow_add, pow_succ rotation, ← smul_mul_smul_comm, ← ih, hunit]
    apply Complex.ext <;> simp [rotor]

/-- Both parts were cut off toward 0, so no power of `rotation` leaves the unit disc. -/
theorem rotation_norm_le : ‖rotation‖ ≤ 1 := by
  rw [← sq_le_one_iff₀ (norm_nonneg _), Complex.sq_norm, Complex.normSq_apply]
  norm_num [rotation]

/-! ### Its distance from e^(π i / 128) -/

/-- The angle π/128 of one index, rounded to ten places. -/
noncomputable def indexAngle : ℝ := 245436926 / 10 ^ 10

theorem abs_pi_sub_indexAngle_le : |Real.pi / 128 - indexAngle| ≤ 1 / 10 ^ 10 := by
  have hlo := Real.pi_gt_d20
  have hhi := Real.pi_lt_d20
  rw [abs_le, indexAngle]
  constructor <;> linarith

/-- Angles that are close have exponentials that are close. -/
theorem norm_exp_sub_exp_le (x y : ℝ) : ‖Complex.exp (.I * x) - Complex.exp (.I * y)‖ ≤ |x - y| := by
  have hsplit : Complex.exp (.I * x) - Complex.exp (.I * y) =
      Complex.exp (.I * y) * (Complex.exp (.I * (x - y : ℝ)) - 1) := by
    rw [mul_sub, mul_one, ← Complex.exp_add]
    congr 2
    push_cast
    ring
  rw [hsplit, norm_mul, Complex.norm_exp_I_mul_ofReal, one_mul]
  exact Real.norm_exp_I_mul_ofReal_sub_one_le

/-- The first five terms of the exponential series at the rounded angle. -/
noncomputable def indexSeries : ℂ := ∑ m ∈ Finset.range 5, (.I * (indexAngle : ℂ)) ^ m / m.factorial

theorem norm_exp_sub_indexSeries_le : ‖Complex.exp (.I * indexAngle) - indexSeries‖ ≤ 1 / 10 ^ 10 := by
  have hnorm : ‖(.I * (indexAngle : ℂ))‖ = indexAngle := by
    rw [norm_mul, Complex.norm_I, one_mul, Complex.norm_real, Real.norm_of_nonneg (by norm_num [indexAngle])]
  have hle : ‖(.I * (indexAngle : ℂ))‖ ≤ 1 := by
    rw [hnorm]
    norm_num [indexAngle]
  refine (Complex.exp_bound hle (n := 5) (by decide)).trans ?_
  rw [hnorm]
  norm_num [indexAngle, Nat.factorial]

theorem indexSeries_eq :
    indexSeries = ⟨1 - indexAngle ^ 2 / 2 + indexAngle ^ 4 / 24, indexAngle - indexAngle ^ 3 / 6⟩ := by
  apply Complex.ext <;> simp [indexSeries, Finset.sum_range_succ, Nat.factorial, pow_succ] <;> ring

theorem norm_indexSeries_sub_rotation_le : ‖indexSeries - rotation‖ ≤ 15 / 10 ^ 10 := by
  rw [indexSeries_eq]
  refine (Complex.norm_le_abs_re_add_abs_im _).trans ?_
  norm_num [indexAngle, rotation, abs_of_nonneg]

theorem norm_exp_sub_rotation_le : ‖Complex.exp (.I * (Real.pi / 128 : ℝ)) - rotation‖ ≤ 2 / 10 ^ 9 := by
  have hangle := (norm_exp_sub_exp_le (Real.pi / 128) indexAngle).trans abs_pi_sub_indexAngle_le
  have hseries := norm_sub_le_norm_sub_add_norm_sub (Complex.exp (.I * indexAngle)) indexSeries rotation
  calc ‖Complex.exp (.I * (Real.pi / 128 : ℝ)) - rotation‖
      ≤ ‖Complex.exp (.I * (Real.pi / 128 : ℝ)) - Complex.exp (.I * indexAngle)‖ +
          ‖Complex.exp (.I * indexAngle) - rotation‖ := norm_sub_le_norm_sub_add_norm_sub _ _ _
    _ ≤ 2 / 10 ^ 9 := by linarith [norm_exp_sub_indexSeries_le, norm_indexSeries_sub_rotation_le]

/-- In the unit disc the distance of two powers grows by the distance of the bases with each factor. -/
theorem norm_pow_sub_pow_le {z w : ℂ} {δ : ℝ} (hz : ‖z‖ ≤ 1) (hw : ‖w‖ ≤ 1) (h : ‖z - w‖ ≤ δ) (n : Nat) :
    ‖z ^ n - w ^ n‖ ≤ n * δ := by
  induction n with
  | zero => simp
  | succ n ih =>
    have hsplit : z ^ (n + 1) - w ^ (n + 1) = z * (z ^ n - w ^ n) + (z - w) * w ^ n := by ring
    calc ‖z ^ (n + 1) - w ^ (n + 1)‖ ≤ ‖z‖ * ‖z ^ n - w ^ n‖ + ‖z - w‖ * ‖w‖ ^ n := by
          rw [hsplit]
          exact (norm_add_le _ _).trans_eq (by rw [norm_mul, norm_mul, norm_pow])
      _ ≤ 1 * (n * δ) + δ * 1 := by
          gcongr
          · exact (norm_nonneg _).trans h
          · exact pow_le_one₀ (norm_nonneg w) hw
      _ = (n + 1 : Nat) * δ := by
          push_cast
          ring

/-! ### The table against the sine -/

/-- R108, R109: the first quarter wave of the table against the powers of `rotation`, in integers. -/
theorem sineRom_near_rotor : ∀ n < 65,
    1000 * |sineRom (BitVec.ofNat 8 n) * 10 ^ (9 * n) - 32767 * (rotor n).2| ≤ 495 * 10 ^ (9 * n) := by
  decide +kernel

/-- R108: how far an entry of the table is from the sine it stands for. -/
noncomputable def romError (i : Nat) : ℝ :=
  |(sineRom (BitVec.ofNat 8 i) : ℝ) - 32767 * Real.sin (2 * Real.pi * i / 256)|

/-- The error of taking the power of `rotation` for the sine. -/
theorem abs_sin_sub_rotation_le (i : Nat) :
    |Real.sin (2 * Real.pi * i / 256) - (rotation ^ i).im| ≤ i * (2 / 10 ^ 9) := by
  have hsin : Real.sin (2 * Real.pi * i / 256) = (Complex.exp (.I * (Real.pi / 128 : ℝ)) ^ i).im := by
    rw [← Complex.exp_nat_mul, ← Complex.exp_ofReal_mul_I_im]
    congr 2
    push_cast
    ring
  rw [hsin, ← Complex.sub_im]
  exact (Complex.abs_im_le_norm _).trans
    (norm_pow_sub_pow_le (Complex.norm_exp_I_mul_ofReal _).le rotation_norm_le norm_exp_sub_rotation_le i)

/-- The comparison in integers, divided by the scale of `rotor`. -/
theorem abs_sineRom_sub_rotation_le {i : Nat} (h : i ≤ 64) :
    |(sineRom (BitVec.ofNat 8 i) : ℝ) - 32767 * (rotation ^ i).im| ≤ 495 / 1000 := by
  have hscale : (0 : ℝ) < 10 ^ (9 * i) := by positivity
  have him : ((rotor i).2 : ℝ) = 10 ^ (9 * i) * (rotation ^ i).im := by
    rw [← smul_eq_mul, ← Complex.smul_im, ← rotor_eq]
  have hrom : 1000 * |(sineRom (BitVec.ofNat 8 i) * 10 ^ (9 * i) - 32767 * (rotor i).2 : ℝ)| ≤
      495 * 10 ^ (9 * i) := by
    exact_mod_cast sineRom_near_rotor i (by omega)
  have hfactor : (sineRom (BitVec.ofNat 8 i) * 10 ^ (9 * i) - 32767 * (rotor i).2 : ℝ) =
      10 ^ (9 * i) * (sineRom (BitVec.ofNat 8 i) - 32767 * (rotation ^ i).im) := by
    rw [him]
    ring
  rw [hfactor, abs_mul, abs_of_pos hscale] at hrom
  nlinarith

/-- R108: the first quarter wave. -/
theorem romError_lt_of_le {i : Nat} (h : i ≤ 64) : romError i < 1 / 2 - 1 / 10 ^ 6 := by
  have hrom := abs_sineRom_sub_rotation_le h
  have hsin := abs_sin_sub_rotation_le i
  have hi : (i : ℝ) ≤ 64 := by exact_mod_cast h
  rw [romError]
  rw [abs_le] at hrom hsin
  rw [abs_lt]
  constructor <;> linarith

/-- R109: table and sine have the same mirror image. -/
theorem romError_mirror {i : Nat} (h₁ : 1 ≤ i) (h₂ : i ≤ 127) : romError (128 - i) = romError i := by
  have hsin : Real.sin (2 * Real.pi * (128 - i : Nat) / 256) = Real.sin (2 * Real.pi * i / 256) := by
    rw [← Real.sin_pi_sub, Nat.cast_sub (by omega)]
    congr 1
    push_cast
    ring
  rw [romError, romError, ← sineRom_mirror h₁ h₂, hsin]

/-- R109: table and sine change their signs after half a period. -/
theorem romError_add_half {i : Nat} (h : i ≤ 127) : romError (i + 128) = romError i := by
  have hsin : Real.sin (2 * Real.pi * (i + 128 : Nat) / 256) = -Real.sin (2 * Real.pi * i / 256) := by
    rw [← Real.sin_add_pi]
    congr 1
    push_cast
    ring
  rw [romError, romError, sineRom_add_half h, hsin, ← abs_neg]
  congr 1
  push_cast
  ring

theorem romError_lt_of_half {i : Nat} (h : i ≤ 127) : romError i < 1 / 2 - 1 / 10 ^ 6 := by
  obtain hquarter | hquarter := le_or_gt i 64
  · exact romError_lt_of_le hquarter
  · rw [← romError_mirror (by omega) h]
    exact romError_lt_of_le (by omega)

end Sys2Proof.Machine

open Sys2Proof Sys2Proof.Machine

/-- Settles O58: the first quarter wave by the rational rotation, the second by the mirror image, the second half by the
change of sign. -/
theorem sineRomIsRoundedSine : Obligations.SineRomIsRoundedSine := by
  intro i hi
  obtain hhalf | hhalf := le_or_gt i 127
  · exact romError_lt_of_half hhalf
  · obtain ⟨j, rfl⟩ : ∃ j, i = j + 128 := ⟨i - 128, by omega⟩
    exact (romError_add_half (by omega)).trans_lt (romError_lt_of_half (by omega))
end

section
/-! PROOFS, family 41_envelope: the profile commands, the note events and the envelope under TICK (R130 to R145). All
that a TICK can do to the envelope is said once, by `execTick_envTicked`; the laws of R145 are read off its cases. -/

namespace Sys2Proof.Machine

open Sys2Proof

/-! ### Durations in ticks (R130) -/

theorem msToTicks_lt {sr ms : Nat} (hsr : sr ≤ 2 ^ 24 - 1) (hms : ms ≤ 65535) : msToTicks sr ms < 2 ^ 32 := by
  have hmul : ms * sr ≤ 65535 * (2 ^ 24 - 1) := Nat.mul_le_mul hms hsr
  unfold msToTicks
  omega

/-- R130, R135: at a legal SR no duration of a profile register loses bits when it is latched. -/
theorem latchTicks_toNat {c : Config} (hc : c.Wf) (ms : BitVec 16) :
    (latchTicks c ms).toNat = msToTicks c.sampleRate ms.toNat :=
  Nat.mod_eq_of_lt (msToTicks_lt hc.2 (Nat.le_of_lt_succ ms.isLt))

/-! ### What TICK does to the envelope (R137 to R142) -/

/-- R137: the counter is at its limit at the latest. -/
theorem toNat_le_elapsedNext (e : BitVec 32) : e.toNat ≤ elapsedNext e := by
  unfold elapsedNext
  omega

/-- R137: the counter register holds the advanced counter. -/
theorem toNat_ofNat_elapsedNext (e : BitVec 32) : (BitVec.ofNat 32 (elapsedNext e)).toNat = elapsedNext e :=
  Nat.mod_eq_of_lt (by unfold elapsedNext; omega)

/-- R10: a permille value fits ENV_AMP. -/
theorem toNat_ofInt_permille {v : Int} {n : Nat} (hv : v = n) (hn : n ≤ 1000) : (BitVec.ofInt 10 v).toNat = n := by
  rw [hv, BitVec.ofInt_natCast, BitVec.toNat_ofNat]
  exact Nat.mod_eq_of_lt (by omega)

/-- R139 to R142: before its end a ramp has not gone further than its whole way. -/
theorem ramp_le {e n : Nat} (a : Nat) (h : e < n) : a * e / n ≤ a :=
  Nat.div_le_of_le_mul (by rw [mul_comm n]; exact Nat.mul_le_mul_left a h.le)

/-- R145 (b): a ramp does not turn back. -/
theorem ramp_mono {e e' : Nat} (a n : Nat) (h : e ≤ e') : a * e / n ≤ a * e' / n :=
  Nat.div_le_div_right (Nat.mul_le_mul_left a h)

/-- The three registers that `EnvProcess` writes, in numbers. -/
structure Regs.InEnv (r : Regs) (state : BitVec 3) (amp elapsed : Nat) : Prop where
  state : r.envState = state
  amp : r.envAmp.toNat = amp
  elapsed : r.envElapsed.toNat = elapsed

theorem Regs.InEnv.amp_eq {r : Regs} {st : BitVec 3} {a : BitVec 10} {e : Nat} (h : r.InEnv st a.toNat e) :
    r.envAmp = a :=
  BitVec.eq_of_toNat_eq h.amp

theorem Regs.InEnv.elapsed_eq {r : Regs} {st : BitVec 3} {a : Nat} {e : BitVec 32} (h : r.InEnv st a e.toNat) :
    r.envElapsed = e :=
  BitVec.eq_of_toNat_eq h.elapsed

/-- R137 to R142: the envelope in `q` is the one in `r` after one TICK. A timed state goes on or comes to its timed
end. -/
structure EnvTicked (r q : Regs) : Prop where
  idle : r.envState = envIdle → q.InEnv envIdle 0 (elapsedNext r.envElapsed)
  attack : r.envState = envAttack → elapsedNext r.envElapsed < r.envATicks.toNat →
    q.InEnv envAttack (1000 * elapsedNext r.envElapsed / r.envATicks.toNat) (elapsedNext r.envElapsed)
  attackEnd : r.envState = envAttack → r.envATicks.toNat ≤ elapsedNext r.envElapsed → q.InEnv envDecay 1000 0
  decay : r.envState = envDecay → elapsedNext r.envElapsed < r.envDTicks.toNat →
    q.InEnv envDecay (1000 - (1000 - r.envSLvl.toNat) * elapsedNext r.envElapsed / r.envDTicks.toNat)
      (elapsedNext r.envElapsed)
  decayEnd : r.envState = envDecay → r.envDTicks.toNat ≤ elapsedNext r.envElapsed →
    q.InEnv envSustain r.envSLvl.toNat 0
  sustain : r.envState = envSustain → q.InEnv envSustain r.envSLvl.toNat (elapsedNext r.envElapsed)
  release : r.envState = envRelease → elapsedNext r.envElapsed < r.envRTicks.toNat →
    q.InEnv envRelease
      (r.envRelStart.toNat - r.envRelStart.toNat * elapsedNext r.envElapsed / r.envRTicks.toNat)
      (elapsedNext r.envElapsed)
  releaseEnd : r.envState = envRelease → r.envRTicks.toNat ≤ elapsedNext r.envElapsed → q.InEnv envIdle 0 0

/-- R139: the ramp of ATTACK as ENV_AMP holds it. -/
theorem attackRamp_toNat {e n : Nat} (h : e < n) :
    (BitVec.ofInt 10 (fdiv (1000 * e) n)).toNat = 1000 * e / n :=
  toNat_ofInt_permille (by simp [fdiv]) (ramp_le 1000 h)

/-- R140: the ramp of DECAY as ENV_AMP holds it. -/
theorem decayRamp_toNat {lvl e n : Nat} (hlvl : lvl ≤ 1000) (h : e < n) :
    (BitVec.ofInt 10 (1000 - fdiv ((1000 - lvl) * e) n)).toNat = 1000 - (1000 - lvl) * e / n := by
  have hway : (1000 - lvl) * e / n ≤ 1000 := (ramp_le (1000 - lvl) h).trans (Nat.sub_le _ _)
  refine toNat_ofInt_permille ?_ (Nat.sub_le _ _)
  push_cast [hway, hlvl]
  rfl

/-- R142: the ramp of RELEASE as ENV_AMP holds it. -/
theorem releaseRamp_toNat {l e n : Nat} (hl : l ≤ 1000) (h : e < n) :
    (BitVec.ofInt 10 (l - fdiv (l * e) n)).toNat = l - l * e / n := by
  refine toNat_ofInt_permille ?_ ((Nat.sub_le _ _).trans hl)
  push_cast [ramp_le l h]
  rfl

/-- What TICK leaves of the envelope is what `EnvProcess` answers. -/
theorem execTick_env {s t : State} {o : EnvStep} (h : execTick s = .next t) (ho : envProcess s.regs = some o) :
    t.regs.InEnv o.state o.amp.toNat o.elapsed.toNat := by
  obtain ⟨raw, o', -, ho', rfl⟩ := execTick_next h
  obtain rfl : o' = o := Option.some.inj (ho'.symm.trans ho)
  exact ⟨rfl, rfl, rfl⟩

/-- R137: the case of `EnvProcess` for each state. -/
theorem envProcess_cases (r : Regs) :
    (r.envState = envIdle → envProcess r = some (envTickIdle (elapsedNext r.envElapsed))) ∧
      (r.envState = envAttack → envProcess r = some (envTickAttack (elapsedNext r.envElapsed) r)) ∧
      (r.envState = envDecay → envProcess r = some (envTickDecay (elapsedNext r.envElapsed) r)) ∧
      (r.envState = envSustain → envProcess r = some (envTickSustain (elapsedNext r.envElapsed) r)) ∧
      (r.envState = envRelease → envProcess r = some (envTickRelease (elapsedNext r.envElapsed) r)) := by
  refine ⟨?_, ?_, ?_, ?_, ?_⟩ <;> intro h <;> simp [envProcess, h]

/-- R137 to R142: everything that a TICK does to the envelope. -/
theorem execTick_envTicked {s t : State} (hs : s.Inv) (h : execTick s = .next t) : EnvTicked s.regs t.regs := by
  obtain ⟨-, -, hrel, hlvl, -⟩ := hs
  obtain ⟨hidle, hattack, hdecay, hsustain, hrelease⟩ := envProcess_cases s.regs
  have hcount := toNat_ofNat_elapsedNext s.regs.envElapsed
  exact {
    idle := fun hst => by
      simpa only [envTickIdle, BitVec.toNat_zero, hcount] using execTick_env h (hidle hst)
    attack := fun hst he => by
      simpa only [envTickAttack, if_neg (not_le.2 he), attackRamp_toNat he, hcount] using execTick_env h (hattack hst)
    attackEnd := fun hst he => by
      simpa [envTickAttack, he] using execTick_env h (hattack hst)
    decay := fun hst he => by
      simpa only [envTickDecay, if_neg (not_le.2 he), decayRamp_toNat hlvl he, hcount] using execTick_env h (hdecay hst)
    decayEnd := fun hst he => by
      simpa [envTickDecay, he] using execTick_env h (hdecay hst)
    sustain := fun hst => by
      simpa only [envTickSustain, hcount] using execTick_env h (hsustain hst)
    release := fun hst he => by
      simpa only [envTickRelease, if_neg (not_le.2 he), releaseRamp_toNat hrel he, hcount] using
        execTick_env h (hrelease hst)
    releaseEnd := fun hst he => by
      simpa [envTickRelease, he] using execTick_env h (hrelease hst) }

/-- R29, R34 to R37: the profile of the sounding note in `r` is the one in `p`. -/
structure SameNote (p r : Regs) : Prop where
  aTicks : r.envATicks = p.envATicks
  dTicks : r.envDTicks = p.envDTicks
  sLvl : r.envSLvl = p.envSLvl
  rTicks : r.envRTicks = p.envRTicks
  relStart : r.envRelStart = p.envRelStart

theorem SameNote.trans {p q r : Regs} (hq : SameNote p q) (hr : SameNote q r) : SameNote p r :=
  ⟨hr.aTicks.trans hq.aTicks, hr.dTicks.trans hq.dTicks, hr.sLvl.trans hq.sLvl, hr.rTicks.trans hq.rTicks,
    hr.relStart.trans hq.relStart⟩

/-- R29, R34 to R37: TICK writes neither the latched profile nor the release level. -/
theorem execTick_sameNote {s t : State} (h : execTick s = .next t) : SameNote s.regs t.regs := by
  obtain ⟨raw, o, -, -, rfl⟩ := execTick_next h
  exact ⟨rfl, rfl, rfl, rfl, rfl⟩

/-! ### The states and their transitions (R48, R144) -/

/-- R48: an instruction that completes keeps the invariant. -/
theorem exec_inv {i : Instr} {s t : State} (h : exec i s = .next t) (hs : s.Inv) : t.Inv := by
  obtain ⟨hc, hr⟩ := hs
  exact ⟨(exec_config h).symm ▸ hc, exec_keeps_wf h hr⟩

/-- R48: the states of R26 are all there are. -/
theorem envState_cases {r : Regs} (h : r.Wf) :
    r.envState = 0#3 ∨ r.envState = 1#3 ∨ r.envState = 2#3 ∨ r.envState = 3#3 ∨ r.envState = 4#3 := by
  obtain ⟨-, -, -, -, -, hstate, -⟩ := h
  generalize r.envState = st at hstate
  decide +revert

/-- R144: the transitions of TICK: the three timed ends, and no other. -/
theorem EnvTicked.envState {r q : Regs} (h : EnvTicked r q) (hr : r.Wf) :
    q.envState =
      if r.envState = 1#3 ∧ r.envATicks.toNat ≤ elapsedNext r.envElapsed then 2#3
      else if r.envState = 2#3 ∧ r.envDTicks.toNat ≤ elapsedNext r.envElapsed then 3#3
      else if r.envState = 4#3 ∧ r.envRTicks.toNat ≤ elapsedNext r.envElapsed then 0#3
      else r.envState := by
  obtain hst | hst | hst | hst | hst := envState_cases hr
  · simp [hst, (h.idle hst).state]
  · obtain he | he := le_or_gt r.envATicks.toNat (elapsedNext r.envElapsed)
    · simp [hst, he, (h.attackEnd hst he).state]
    · simp [hst, he, (h.attack hst he).state]
  · obtain he | he := le_or_gt r.envDTicks.toNat (elapsedNext r.envElapsed)
    · simp [hst, he, (h.decayEnd hst he).state]
    · simp [hst, he, (h.decay hst he).state]
  · simp [hst, (h.sustain hst).state]
  · obtain he | he := le_or_gt r.envRTicks.toNat (elapsedNext r.envElapsed)
    · simp [hst, he, (h.releaseEnd hst he).state]
    · simp [hst, he, (h.release hst he).state]

/-! ### The ramps are monotone (R145 (b)) -/

/-- R139: over a second TICK of ATTACK the amplitude does not fall; at the timed end it is the top of the ramp. -/
theorem EnvTicked.amp_le_of_attack {r q w : Regs} (h : EnvTicked r q) (h' : EnvTicked q w) (hn : SameNote r q)
    (hr : r.envState = envAttack) (hq : q.envState = envAttack) : q.envAmp.toNat ≤ w.envAmp.toNat := by
  have hlt : elapsedNext r.envElapsed < r.envATicks.toNat :=
    not_le.1 fun he => absurd ((h.attackEnd hr he).state.symm.trans hq) (by decide)
  obtain ⟨-, hamp, hel⟩ := h.attack hr hlt
  have hgo := h'.attack hq
  have hend := h'.attackEnd hq
  rw [hn.aTicks] at hgo hend
  rw [hamp]
  obtain he | he := lt_or_ge (elapsedNext q.envElapsed) r.envATicks.toNat
  · exact (hgo he).amp ▸ ramp_mono _ _ (hel ▸ toNat_le_elapsedNext q.envElapsed)
  · exact (hend he).amp ▸ ramp_le _ hlt

/-- R140: over a second TICK of DECAY the amplitude does not rise; at the timed end it is the sustain level. -/
theorem EnvTicked.amp_le_of_decay {r q w : Regs} (h : EnvTicked r q) (h' : EnvTicked q w) (hn : SameNote r q)
    (hlvl : r.envSLvl.toNat ≤ 1000) (hr : r.envState = envDecay) (hq : q.envState = envDecay) :
    w.envAmp.toNat ≤ q.envAmp.toNat := by
  have hlt : elapsedNext r.envElapsed < r.envDTicks.toNat :=
    not_le.1 fun he => absurd ((h.decayEnd hr he).state.symm.trans hq) (by decide)
  obtain ⟨-, hamp, hel⟩ := h.decay hr hlt
  have hgo := h'.decay hq
  have hend := h'.decayEnd hq
  rw [hn.dTicks, hn.sLvl] at hgo hend
  rw [hamp]
  obtain he | he := lt_or_ge (elapsedNext q.envElapsed) r.envDTicks.toNat
  · exact (hgo he).amp ▸ Nat.sub_le_sub_left (ramp_mono _ _ (hel ▸ toNat_le_elapsedNext q.envElapsed)) 1000
  · have hway := ramp_le (1000 - r.envSLvl.toNat) hlt
    rw [(hend he).amp]
    omega

/-- R142: over a second TICK of RELEASE the amplitude does not rise; at the timed end it is 0. -/
theorem EnvTicked.amp_le_of_release {r q w : Regs} (h : EnvTicked r q) (h' : EnvTicked q w) (hn : SameNote r q)
    (hr : r.envState = envRelease) (hq : q.envState = envRelease) : w.envAmp.toNat ≤ q.envAmp.toNat := by
  have hlt : elapsedNext r.envElapsed < r.envRTicks.toNat :=
    not_le.1 fun he => absurd ((h.releaseEnd hr he).state.symm.trans hq) (by decide)
  obtain ⟨-, hamp, hel⟩ := h.release hr hlt
  have hgo := h'.release hq
  have hend := h'.releaseEnd hq
  rw [hn.rTicks] at hgo hend
  rw [hn.relStart] at hgo
  rw [hamp]
  obtain he | he := lt_or_ge (elapsedNext q.envElapsed) r.envRTicks.toNat
  · exact (hgo he).amp ▸ Nat.sub_le_sub_left (ramp_mono _ _ (hel ▸ toNat_le_elapsedNext q.envElapsed)) _
  · exact (hend he).amp ▸ Nat.zero_le _

/-! ### Runs of pulses -/

/-- What each TICK carries from one number of pulses to the next holds after any number of them, and the run completes.
The note of `p` is the one that sounds throughout. -/
theorem runSteps_withTicks {p : Regs} (n : Nat) : ∀ {P : Nat → Regs → Prop} {s : State}, s.Inv → SameNote p s.regs →
    (∀ k r q, P k r → SameNote p r → EnvTicked r q → P (k + 1) q) → P 0 s.regs →
    ∃ t, runSteps n (s.withTicks n) = .next t ∧ P n t.regs := by
  induction n with
  | zero => exact fun {_ s} _ _ _ h => ⟨s.withTicks 0, rfl, h⟩
  | succ n ih =>
    intro P s hs hp hP h
    obtain ⟨t, hstep, htick⟩ := step_withTicks_succ hs n
    have hnext : P 1 t.regs := hP 0 s.regs t.regs h hp
      (execTick_envTicked (s := s.withTicks n) (t := t.withTicks n) hs htick)
    have hp' : SameNote p t.regs :=
      hp.trans (execTick_sameNote (s := s.withTicks n) (t := t.withTicks n) htick)
    obtain ⟨u, hrun, hu⟩ := ih (P := fun k => P (k + 1)) (step_inv hstep : (t.withTicks n).Inv) hp'
      (fun k => hP (k + 1)) hnext
    exact ⟨u, (runSteps_succ_of n hstep).trans hrun, hu⟩

/-- R137: below a duration that fits the register the counter does not saturate. -/
theorem elapsedNext_of_lt {e t : BitVec 32} (h : e.toNat < max t.toNat 1) : elapsedNext e = e.toNat + 1 := by
  unfold elapsedNext
  omega

/-- R145 (c): the envelope `n` TICKs after a NOTE_ON that latched the profile in `p`. ATTACK and DECAY last for their
ticks and for at least one. -/
inductive OnsetPhase (p : Regs) (n : Nat) (r : Regs) : Prop where
  | attack (amp : Nat) (hn : n < max p.envATicks.toNat 1) (hamp : amp < 1000) (hr : r.InEnv envAttack amp n)
  | decay (amp m : Nat) (hn : n = max p.envATicks.toNat 1 + m) (hm : m < max p.envDTicks.toNat 1)
      (hamp : m = 0 → amp = 1000) (hr : r.InEnv envDecay amp m)
  | sustain (e : Nat) (hn : max p.envATicks.toNat 1 + max p.envDTicks.toNat 1 ≤ n)
      (hr : r.InEnv envSustain p.envSLvl.toNat e)

/-- R139 to R141: one more TICK. -/
theorem OnsetPhase.tick {p r q : Regs} {n : Nat} (h : OnsetPhase p n r) (hp : SameNote p r) (ht : EnvTicked r q) :
    OnsetPhase p (n + 1) q := by
  cases h with
  | attack amp hn hamp hr =>
    obtain ⟨hstate, -, helapsed⟩ := hr
    have hcount : elapsedNext r.envElapsed = n + 1 := by
      rw [elapsedNext_of_lt (helapsed ▸ hn), helapsed]
    have hgo := ht.attack hstate
    have hend := ht.attackEnd hstate
    rw [hcount, hp.aTicks] at hgo hend
    obtain he | he := lt_or_ge (n + 1) p.envATicks.toNat
    · have hamp : 1000 * (n + 1) / p.envATicks.toNat < 1000 := (Nat.div_lt_iff_lt_mul (by omega)).2 (by omega)
      exact .attack _ (by omega) hamp (hgo he)
    · exact .decay 1000 0 (by omega) (by omega) (fun _ => rfl) (hend he)
  | decay amp m hn hm hamp hr =>
    obtain ⟨hstate, -, helapsed⟩ := hr
    have hcount : elapsedNext r.envElapsed = m + 1 := by
      rw [elapsedNext_of_lt (helapsed ▸ hm), helapsed]
    have hgo := ht.decay hstate
    have hend := ht.decayEnd hstate
    rw [hcount, hp.dTicks] at hgo hend
    obtain he | he := lt_or_ge (m + 1) p.envDTicks.toNat
    · exact .decay _ (m + 1) (by omega) (by omega) (by omega) (hgo he)
    · exact .sustain 0 (by omega) (hp.sLvl ▸ hend he)
  | sustain e hn hr => exact .sustain _ (by omega) (hp.sLvl ▸ ht.sustain hr.state)

/-- R145 (d): the envelope `n` TICKs after a NOTE_OFF that left the registers `p`. RELEASE lasts for its ticks and for at
least one. -/
inductive ReleasePhase (p : Regs) (n : Nat) (r : Regs) : Prop where
  | release (amp : Nat) (hn : n < max p.envRTicks.toNat 1) (hamp : amp ≤ p.envRelStart.toNat)
      (hr : r.InEnv envRelease amp n)
  | idle (e : Nat) (hn : max p.envRTicks.toNat 1 ≤ n) (hr : r.InEnv envIdle 0 e)

/-- R142, R138: one more TICK. -/
theorem ReleasePhase.tick {p r q : Regs} {n : Nat} (h : ReleasePhase p n r) (hp : SameNote p r)
    (ht : EnvTicked r q) : ReleasePhase p (n + 1) q := by
  cases h with
  | release amp hn hamp hr =>
    obtain ⟨hstate, -, helapsed⟩ := hr
    have hcount : elapsedNext r.envElapsed = n + 1 := by
      rw [elapsedNext_of_lt (helapsed ▸ hn), helapsed]
    have hgo := ht.release hstate
    have hend := ht.releaseEnd hstate
    rw [hcount, hp.rTicks] at hgo hend
    obtain he | he := lt_or_ge (n + 1) p.envRTicks.toNat
    · exact .release _ (by omega) (hp.relStart ▸ Nat.sub_le _ _) (hgo he)
    · exact .idle 0 (by omega) (hend he)
  | idle e hn hr => exact .idle _ (by omega) (ht.idle hr.state)

end Sys2Proof.Machine

open Sys2Proof Sys2Proof.Machine

/-- Settles O25: `msToTicks` is the quotient by 1000. -/
theorem millisecondsToTicks : Obligations.MillisecondsToTicks := by
  intro c hc ms hms
  refine ⟨Nat.div_mul_le_self _ _, ?_, msToTicks_lt hc.2 hms, Nat.div_eq_of_lt⟩
  rw [mul_comm _ 1000]
  exact Nat.lt_mul_div_succ _ (by decide)

/-- Settles O9: the words by their opcodes, the meanings by definition. -/
theorem profileTimeCommandsResult : Obligations.ProfileTimeCommandsResult :=
  fun _ _ => ⟨by simp [encode_toNat, Laws.Spelling.opcode, Instr.arg],
    by simp [encode_toNat, Laws.Spelling.opcode, Instr.arg], by simp [encode_toNat, Laws.Spelling.opcode, Instr.arg],
    rfl, rfl, rfl⟩

/-- Settles O10: the range check is the negated comparison. -/
theorem setSustainResult : Obligations.SetSustainResult := by
  intro v s
  refine ⟨by simp [encode_toNat, Laws.Spelling.opcode, Instr.arg], ?_⟩
  simp only [← not_le, ite_not]
  rfl

/-- Settles O15: the three states of the condition are those of `noteHeld`. -/
theorem noteOffResult : Obligations.NoteOffResult := fun _ => ⟨rfl, rfl⟩

/-- Settles O14: the latched durations are the exact ones, since they fit their registers. -/
theorem noteOnResult : Obligations.NoteOnResult :=
  fun _ s hc => ⟨by simp [encode_toNat, Laws.Spelling.opcode, Instr.arg], _, _, _,
    latchTicks_toNat hc s.regs.attackMs, latchTicks_toNat hc s.regs.decayMs, latchTicks_toNat hc s.regs.releaseMs, rfl⟩

/-- Settles O26: the clauses are those of `EnvTicked`. -/
theorem envelopeTickResult : Obligations.EnvelopeTickResult := by
  intro s t hs h
  have ht := execTick_envTicked hs h
  refine ⟨fun hst => ?idle, fun hst he => ?attackEnd, fun hst he => ?attack, fun hst he => ?decayEnd,
    fun hst he => ?decay, fun hst => ?sustain, fun hst he => ?releaseEnd, fun hst he => ?release⟩
  case idle => have hq := ht.idle hst; exact ⟨hq.state, hq.amp_eq, hq.elapsed⟩
  case attackEnd => have hq := ht.attackEnd hst he; exact ⟨hq.state, hq.amp_eq, hq.elapsed_eq⟩
  case attack => have hq := ht.attack hst he; exact ⟨hq.state, hq.amp, hq.elapsed⟩
  case decayEnd => have hq := ht.decayEnd hst he; exact ⟨hq.state, hq.amp_eq, hq.elapsed_eq⟩
  case decay => have hq := ht.decay hst he; exact ⟨hq.state, hq.amp, hq.elapsed⟩
  case sustain => have hq := ht.sustain hst; exact ⟨hq.state, hq.amp_eq, hq.elapsed⟩
  case releaseEnd => have hq := ht.releaseEnd hst he; exact ⟨hq.state, hq.amp_eq, hq.elapsed_eq⟩
  case release => have hq := ht.release hst he; exact ⟨hq.state, hq.amp, hq.elapsed⟩

/-- Settles O28, state by state: both TICKs are on the ramp of the same note, the second at least as far. -/
theorem rampsAreMonotone : Obligations.RampsAreMonotone := by
  intro s t u hs hst htu
  have hticked := execTick_envTicked hs hst
  have hticked' := execTick_envTicked (exec_inv (i := .tick) hst hs) htu
  have hnote := execTick_sameNote hst
  obtain ⟨-, -, -, hlvl, -⟩ := hs
  exact ⟨hticked.amp_le_of_attack hticked' hnote, hticked.amp_le_of_decay hticked' hnote hlvl,
    hticked.amp_le_of_release hticked' hnote, fun ht => (hticked'.sustain ht).amp_eq⟩

/-- Settles O51: TICK has its timed ends (`EnvTicked.envState`), the note events write their state, and no other
instruction writes ENV_STATE. -/
theorem envelopeTransitions : Obligations.EnvelopeTransitions := by
  intro i s t hs h
  refine ⟨?_, ?_, ?_, fun hon hoff htick => ?_⟩
  · rintro fr rfl
    cases h
    rfl
  · rintro rfl
    rw [(noteOffResult s).2] at h
    obtain hst | hst | hst | hst | hst := envState_cases hs.2
    all_goals
      simp only [hst] at h ⊢
      cases h
      simp [hst]
  · rintro rfl
    exact (execTick_envTicked hs h).envState hs.2
  · obtain ⟨-, -, -, henv, -⟩ := registersWrittenOnlyByTheirInstructions i s t h
    exact (henv htick hoff hon).1

/-- Settles O52, by induction on the pulses: `OnsetPhase` holds of the registers NOTE_ON leaves and each TICK carries it
on. -/
theorem attackAndDecayLastTheirTicks : Obligations.AttackAndDecayLastTheirTicks := by
  intro _ s t₀ n hs h a d
  have hlvl : t₀.regs.envSLvl = s.regs.sustainLvl := by cases h; rfl
  have hstart : OnsetPhase t₀.regs 0 t₀.regs := by
    cases h
    exact .attack 0 (by omega) (by omega) ⟨rfl, rfl, rfl⟩
  obtain ⟨t, hrun, hphase⟩ := runSteps_withTicks n (exec_inv h hs) ⟨rfl, rfl, rfl, rfl, rfl⟩
    (fun _ _ _ => OnsetPhase.tick) hstart
  refine ⟨t, hrun, ?_⟩
  cases hphase with
  | attack amp hn hamp hr =>
    exact ⟨fun _ => ⟨hr.state, hr.amp.trans_lt hamp⟩, by omega, by omega, by omega⟩
  | decay amp m hn hm hamp hr =>
    refine ⟨by omega, fun ha => ⟨hr.state, BitVec.eq_of_toNat_eq ?_⟩, fun _ _ => hr.state, by omega⟩
    exact hr.amp.trans (hamp (by omega))
  | sustain e hn hr =>
    exact ⟨by omega, by omega, by omega, fun _ => ⟨hr.state, hr.amp_eq.trans hlvl⟩⟩

/-- Settles O53, by induction on the pulses: `ReleasePhase` holds of the registers NOTE_OFF leaves and each TICK carries
it on. -/
theorem releaseLastsItsTicks : Obligations.ReleaseLastsItsTicks := by
  intro s t₀ n hs hst h r
  have hinv := exec_inv h hs
  rw [(noteOffResult s).2, if_pos hst] at h
  cases h
  obtain ⟨t, hrun, hphase⟩ := runSteps_withTicks n hinv ⟨rfl, rfl, rfl, rfl, rfl⟩
    (fun _ _ _ => ReleasePhase.tick) (ReleasePhase.release _ (by omega) le_rfl ⟨rfl, rfl, rfl⟩)
  refine ⟨t, hrun, ?_⟩
  cases hphase with
  | release amp hn hamp hr => exact ⟨fun _ => ⟨hr.state, hr.amp.trans_le hamp⟩, fun hle => absurd hn (not_lt.2 hle)⟩
  | idle e hn hr => exact ⟨fun hlt => absurd hn (not_le.2 hlt), fun _ => ⟨hr.state, hr.amp_eq⟩⟩
end

section
/-! PROOFS, family 41_envelope: a note that is not let go (R145 (e)). The state of a held note is kept by every
instruction but NOTE_OFF, and no input of the trace asks for that one, since only its own word is read as it. -/

namespace Sys2Proof.Machine

open Sys2Proof

/-! ### The inputs that present NOTE_OFF -/

/-- R63: the four bytes of a word are the only ones that carry it. -/
theorem eq_bytesOfWord {bs : List Byte} {w : Word} (h : wordOfBytes bs = some w) : bs = bytesOfWord w := by
  unfold wordOfBytes at h
  split at h
  · cases h
    simp only [bytesOfWord, ← BitVec.toNat_inj, List.cons.injEq, and_true, BitVec.extractLsb'_toNat, toNat_append_add,
      Nat.shiftRight_eq_div_pow]
    omega
  · cases h

/-- R63, R88: a transaction that is read as an instruction carries the word of the instruction. -/
theorem eq_bytesOfWord_encode {bs : List Byte} {i : Instr} (h : decodeBytes bs = .instr i) :
    bs = bytesOfWord (encode i) := by
  unfold decodeBytes at h
  split at h
  next w hw =>
    rw [(decodeWord_eq_instr_iff_encode.1 h).1]
    exact eq_bytesOfWord hw
  · cases h

/-! ### A held note (R144) -/

/-- R144: a TICK takes a held note from one of its states to itself or to the next, and no further than SUSTAIN. -/
theorem EnvTicked.noteHeld {r q : Regs} (h : EnvTicked r q) (hr : noteHeld r.envState) : noteHeld q.envState := by
  obtain hst | hst | hst := hr
  · obtain he | he := lt_or_ge (elapsedNext r.envElapsed) r.envATicks.toNat
    · exact .inl (h.attack hst he).state
    · exact .inr (.inl (h.attackEnd hst he).state)
  · obtain he | he := lt_or_ge (elapsedNext r.envElapsed) r.envDTicks.toNat
    · exact .inr (.inl (h.decay hst he).state)
    · exact .inr (.inr (h.decayEnd hst he).state)
  · exact .inr (.inr (h.sustain hst).state)

/-- R144: only NOTE_OFF ends the hold of a note. -/
theorem exec_keeps_noteHeld {i : Instr} {s t : State} (hs : s.Inv) (h : exec i s = .next t) (hoff : i ≠ .noteOff)
    (hheld : noteHeld s.regs.envState) : noteHeld t.regs.envState := by
  obtain ⟨hon, -, -, hother⟩ := envelopeTransitions i s t hs h
  cases i with
  | tick => exact (execTick_envTicked hs h).noteHeld hheld
  | noteOn fr => exact .inl (hon fr rfl)
  | noteOff => exact absurd rfl hoff
  | nop | setFreq _ | setWave _ | setAttack _ | setDecay _ | setSustain _ | setRelease _ | setGain _ | setThresh _ _
  | setLpShift _ | setPwmMax _ | setPwmCenter _ | filterReset | read _ =>
    rw [hother (by simp) (by simp) (by simp)]
    exact hheld

/-! ### Traces without reset and NOTE_OFF -/

/-- The input neither resets the block nor presents a NOTE_OFF. -/
def Event.KeepsNote (e : Event) : Prop := e ≠ .reset ∧ e.presents (encode .noteOff) = false

/-- R215, R221: from such a trace the next step runs no NOTE_OFF, and the inputs that it leaves are of the same kind. -/
theorem nextAction_run_keepsNote {s u : State} {i : Instr} (h : nextAction s = .run i u)
    (hs : ∀ e ∈ s.pending, e.KeepsNote) : i ≠ .noteOff ∧ ∀ e ∈ u.pending, e.KeepsNote := by
  unfold nextAction at h
  split at h
  · cases h
  · cases h
  next rest hp =>
    cases h
    rw [hp, List.forall_mem_cons] at hs
    exact ⟨by simp, hs.2⟩
  next bs rest hp =>
    cases h
    rw [hp, List.forall_mem_cons] at hs
    obtain ⟨⟨-, hword⟩, hrest⟩ := hs
    exact ⟨by simp, List.forall_mem_cons.2 ⟨⟨by simp, hword⟩, hrest⟩⟩
  next bs rest hp =>
    rw [hp, List.forall_mem_cons] at hs
    obtain ⟨⟨-, hword⟩, hrest⟩ := hs
    unfold commandAction at h
    split at h <;> cases h
    next hdec =>
      refine ⟨?_, hrest⟩
      rintro rfl
      exact absurd (eq_bytesOfWord_encode hdec) (of_decide_eq_false hword)

/-- R145 (e): a note is held, and no input to come ends it. -/
structure State.HoldsNote (s : State) : Prop where
  held : noteHeld s.regs.envState
  trace : ∀ e ∈ s.pending, e.KeepsNote

/-- R145 (e): one step, whatever its input. -/
theorem step_holdsNote {s t : State} (h : step s = .next t) (hs : s.HoldsNote) : t.HoldsNote := by
  obtain ⟨hheld, htrace⟩ := hs
  obtain ⟨hc, hstep⟩ := step_cases h
  obtain ⟨rest, hp, -⟩ | ⟨hwf, ⟨-, rfl⟩ | ⟨i, u, hu, hexec⟩ | ⟨c, w, u, hu, rfl⟩⟩ := hstep
  · exact absurd rfl (htrace .reset (by simp [hp])).1
  · exact ⟨hheld, htrace⟩
  · obtain ⟨hoff, hrest⟩ := nextAction_run_keepsNote hu htrace
    obtain ⟨p, rfl⟩ := nextAction_state hu
    refine ⟨exec_keeps_noteHeld (s := s.withPending p) ⟨hc, hwf⟩ hexec hoff hheld, ?_⟩
    rw [exec_pending hexec]
    exact hrest
  · obtain ⟨bs, rest, hp, -, rfl⟩ := nextAction_reject hu
    rw [hp, List.forall_mem_cons] at htrace
    refine ⟨?_, ?_⟩
    · rw [rejectCommand_regs]
      exact hheld
    · rw [rejectCommand_pending]
      exact htrace.2

end Sys2Proof.Machine

open Sys2Proof Sys2Proof.Machine

/-- Settles O54: every step keeps `HoldsNote`, so every run does. -/
theorem soundingNoteNeverIdles : Obligations.SoundingNoteNeverIdles :=
  fun _ _ _ _ hheld htrace hrun =>
    (runSteps_induction (P := State.HoldsNote) (fun _ _ => step_holdsNote) hrun ⟨hheld, htrace⟩).held
end

section
/-! PROOFS, family 42_filter_chain: amplitude scaling, the low-pass filter, the gain stage, the soft clipper and the
commands that configure them (R170 to R181). -/

namespace Sys2Proof.Machine

open Sys2Proof

/-! ### Amplitude scaling (R170) -/

/-- R170: the magnitude of a scaled sample. -/
theorem natAbs_scale (raw : Int) (amp : Nat) : (scale raw amp).natAbs = raw.natAbs * amp / 1000 := by
  rw [scale, tdiv, Int.natAbs_tdiv, Int.natAbs_mul, Int.natAbs_natCast]
  rfl

/-- R170: scaling is odd. -/
theorem scale_neg (raw : Int) (amp : Nat) : scale (-raw) amp = -scale raw amp := by
  rw [scale, neg_mul, tdiv, Int.neg_tdiv]
  rfl

theorem scale_nonneg {raw : Int} (amp : Nat) (h : 0 ≤ raw) : 0 ≤ scale raw amp :=
  Int.tdiv_nonneg (mul_nonneg h (Int.natCast_nonneg amp)) (by decide)

/-- R170: a scaled sample never has the sign opposite to the raw one. -/
theorem scale_mul_self_nonneg (raw : Int) (amp : Nat) : 0 ≤ scale raw amp * raw := by
  obtain h | h := le_total 0 raw
  · exact mul_nonneg (scale_nonneg amp h) h
  · have hneg : 0 ≤ -raw := Int.neg_nonneg_of_nonpos h
    rw [← neg_mul_neg, ← scale_neg]
    exact mul_nonneg (scale_nonneg amp hneg) hneg

/-! ### The magnitude of one low-pass step (R171) -/

/-- R171: the magnitude of the step over a distance `n`, `ceil(n / 2^k)`. -/
def lpStep (k n : Nat) : Nat := n ⌈/⌉ 2 ^ k

/-- R180: the distance that is left of `n` after one step. -/
def lpRest (k n : Nat) : Nat := n - lpStep k n

/-- R171: a step is at most `s` exactly when `s` times `2^k` covers the distance. -/
theorem lpStep_le_iff {k n s : Nat} : lpStep k n ≤ s ↔ n ≤ 2 ^ k * s := ceilDiv_le_iff_le_mul (by positivity)

theorem le_mul_lpStep (k n : Nat) : n ≤ 2 ^ k * lpStep k n := lpStep_le_iff.1 le_rfl

@[simp] theorem lpStep_zero_right (k : Nat) : lpStep k 0 = 0 := zero_ceilDiv _

@[simp] theorem lpStep_zero_left (n : Nat) : lpStep 0 n = n := ceilDiv_one n

theorem lpStep_pos {k n : Nat} (h : 0 < n) : 0 < lpStep k n := by
  rw [← not_le, lpStep_le_iff]
  omega

/-- R171: a step does not pass its target. -/
theorem lpStep_le_self (k n : Nat) : lpStep k n ≤ n := lpStep_le_iff.2 (Nat.le_mul_of_pos_left n (by positivity))

/-- R171: the step is rounded up by less than one. -/
theorem mul_lpStep_lt (k n : Nat) : 2 ^ k * lpStep k n < n + 2 ^ k := by
  have hdiv := Nat.mul_div_le (n + 2 ^ k - 1) (2 ^ k)
  have hpos : 0 < 2 ^ k := by positivity
  rw [lpStep, Nat.ceilDiv_eq_add_pred_div]
  omega

/-- R180: a longer distance is stepped over by at most its excess more. -/
theorem lpStep_le_add (k : Nat) {m n : Nat} (h : m ≤ n) : lpStep k n ≤ lpStep k m + (n - m) := by
  rw [lpStep_le_iff, mul_add]
  have hm := le_mul_lpStep k m
  have hexcess : n - m ≤ 2 ^ k * (n - m) := Nat.le_mul_of_pos_left _ (by positivity)
  omega

theorem lpRest_add_lpStep (k n : Nat) : lpRest k n + lpStep k n = n := Nat.sub_add_cancel (lpStep_le_self k n)

/-- R180: what is left is not smaller if the distance was not smaller. -/
theorem lpRest_mono (k : Nat) : Monotone (lpRest k) := by
  intro m n h
  have hstep := lpStep_le_add k h
  have hm := lpRest_add_lpStep k m
  have hn := lpRest_add_lpStep k n
  omega

@[simp] theorem lpRest_zero_right (k : Nat) : lpRest k 0 = 0 := by simp [lpRest]

/-! ### The low-pass filter by its step (R171) -/

/-- R171: the step goes toward the input. -/
theorem lowPass_eq (k : Nat) (p x : Int) : lowPass k p x = p + (x - p).sign * lpStep k (x - p).natAbs := by
  by_cases h : x - p = 0
  · simp [lowPass, h]
  · have hpos : 1 ≤ 2 ^ k := Nat.one_le_two_pow
    have hstep : fdiv ((x - p).natAbs + 2 ^ k - 1) (2 ^ k) = lpStep k (x - p).natAbs := by
      rw [fdiv, lpStep, Nat.ceilDiv_eq_add_pred_div, Int.natCast_ediv, Nat.cast_sub (by omega)]
      push_cast
      rfl
    rw [lowPass, if_neg h, hstep]

/-- R180: the distance to the input after a call, with its sign. -/
theorem sub_lowPass (k : Nat) (p x : Int) : x - lowPass k p x = (x - p).sign * lpRest k (x - p).natAbs := by
  have hsum : (lpRest k (x - p).natAbs + lpStep k (x - p).natAbs : Int) = (x - p).natAbs :=
    mod_cast lpRest_add_lpStep k (x - p).natAbs
  calc x - lowPass k p x
      = (x - p) - (x - p).sign * lpStep k (x - p).natAbs := by rw [lowPass_eq]; ring
    _ = (x - p).sign * (x - p).natAbs - (x - p).sign * lpStep k (x - p).natAbs := by rw [Int.sign_mul_natAbs]
    _ = (x - p).sign * lpRest k (x - p).natAbs := by rw [← hsum]; ring

/-- A magnitude that vanishes with the number whose sign it takes. -/
theorem natAbs_sign_mul {d : Int} {n : Nat} (h : d = 0 → n = 0) : (d.sign * n).natAbs = n := by
  by_cases hd : d = 0
  · simp [h hd]
  · rw [Int.natAbs_mul, Int.natAbs_sign_of_ne_zero hd, one_mul, Int.natAbs_natCast]

/-- R171: the magnitude of the step. -/
theorem natAbs_lowPass_sub (k : Nat) (p x : Int) : (lowPass k p x - p).natAbs = lpStep k (x - p).natAbs := by
  rw [lowPass_eq, add_sub_cancel_left]
  exact natAbs_sign_mul fun h => by simp [h]

/-- R180: the distance after a call is a function of the distance before it. -/
theorem natAbs_sub_lowPass (k : Nat) (p x : Int) : (x - lowPass k p x).natAbs = lpRest k (x - p).natAbs := by
  rw [sub_lowPass]
  exact natAbs_sign_mul fun h => by simp [h]

/-- R171: the output lies between the last output and the input. -/
theorem lowPass_mem (k : Nat) (p x : Int) : min p x ≤ lowPass k p x ∧ lowPass k p x ≤ max p x := by
  have hstep := lpStep_le_self k (x - p).natAbs
  rw [lowPass_eq]
  obtain h | h | h := Int.sign_trichotomy (x - p) <;> rw [h]
  · have := Int.sign_eq_one_iff_pos.1 h
    omega
  · have := Int.sign_eq_zero_iff_zero.1 h
    omega
  · have := Int.sign_eq_neg_one_iff_neg.1 h
    omega

/-- R171: shift 0 passes the input through. -/
theorem lowPass_zero (p x : Int) : lowPass 0 p x = x := by
  rw [lowPass_eq, lpStep_zero_left, Int.sign_mul_natAbs]
  ring

/-- R171: the filter is symmetric. -/
theorem lowPass_neg (k : Nat) (p x : Int) : lowPass k (-p) (-x) = -lowPass k p x := by
  have hd : -x - -p = -(x - p) := by ring
  rw [lowPass_eq, lowPass_eq, hd, Int.sign_neg, Int.natAbs_neg]
  ring

/-- R181: one call on a positive input from the last output 0. -/
theorem lowPass_of_reset {k : Nat} {x : Int} (hx : 0 < x) : lowPass k 0 x = lpStep k x.natAbs := by
  rw [lowPass_eq, sub_zero, Int.sign_eq_one_of_pos hx]
  ring

/-- R181: a step over more than 1 falls short of its target. -/
theorem lpStep_lt_self {k n : Nat} (hk : 1 ≤ k) (hn : 2 ≤ n) : lpStep k n < n := by
  have htwo : 2 ≤ 2 ^ k := Nat.le_self_pow (Nat.one_le_iff_ne_zero.1 hk) 2
  have hcover : 2 * (n - 1) ≤ 2 ^ k * (n - 1) := Nat.mul_le_mul_right _ htwo
  have hle : lpStep k n ≤ n - 1 := lpStep_le_iff.2 (by omega)
  omega

/-! ### Runs of the filter on a constant input (R180)

The distance to the input is all that counts. While it stays within one band `(c * 2^k, (c + 1) * 2^k]` every call
takes `c + 1` from it, so a run is evaluated band by band and not call by call. -/

/-- R180: the distance after `n` calls. -/
theorem natAbs_sub_lowPass_iterate (k : Nat) (x q : Int) (n : Nat) :
    (x - (fun y => lowPass k y x)^[n] q).natAbs = (lpRest k)^[n] (x - q).natAbs :=
  Function.Semiconj.iterate_right (f := fun y : Int => (x - y).natAbs) (fun y => natAbs_sub_lowPass k y x) n q

/-- R180: the input is reached exactly when no distance is left. -/
theorem lowPass_iterate_eq_iff {k n : Nat} {x q : Int} :
    (fun y => lowPass k y x)^[n] q = x ↔ (lpRest k)^[n] (x - q).natAbs = 0 := by
  rw [← natAbs_sub_lowPass_iterate, Int.natAbs_eq_zero, sub_eq_zero, eq_comm]

/-- R171: the step within a band. -/
theorem lpStep_of_band {k c d : Nat} (hlo : 2 ^ k * c < d) (hhi : d ≤ 2 ^ k * (c + 1)) : lpStep k d = c + 1 := by
  refine le_antisymm (lpStep_le_iff.2 hhi) ?_
  rw [Nat.succ_le_iff, ← not_le, lpStep_le_iff]
  omega

/-- R180: `j` calls, the last of which starts within the band of the first. -/
theorem lpRest_iterate_of_band {k c : Nat} (j : Nat) {d : Nat} (hhi : d ≤ 2 ^ k * (c + 1))
    (hlo : 2 ^ k * c + j * (c + 1) < d + (c + 1)) : (lpRest k)^[j] d = d - j * (c + 1) := by
  induction j generalizing d with
  | zero => simp
  | succ j ih =>
    rw [Nat.succ_mul] at hlo ⊢
    have hrest : lpRest k d = d - (c + 1) := by rw [lpRest, lpStep_of_band (by omega) hhi]
    rw [Function.iterate_succ_apply, hrest]
    obtain rfl | hj := j.eq_zero_or_pos
    · simp
    · have hone : c + 1 ≤ j * (c + 1) := Nat.le_mul_of_pos_left _ hj
      rw [ih (by omega) (by omega)]
      omega

/-- The band of the distance `d`. -/
def lpBand (k d : Nat) : Nat := (d - 1) / 2 ^ k

/-- The calls that take `d` to the last distance of its band, or one call where `d` is the last. -/
def lpBandCalls (k d : Nat) : Nat := max 1 ((d - 1 - 2 ^ k * lpBand k d) / (lpBand k d + 1))

/-- R180: the calls of a band, evaluated at once. -/
theorem lpRest_iterate_lpBandCalls {k d : Nat} (hd : 0 < d) :
    (lpRest k)^[lpBandCalls k d] d = d - lpBandCalls k d * (lpBand k d + 1) := by
  have hpos : 0 < 2 ^ k := by positivity
  have hband : 2 ^ k * lpBand k d ≤ d - 1 := Nat.mul_div_le _ _
  apply lpRest_iterate_of_band
  · have := Nat.lt_mul_div_succ (d - 1) hpos
    unfold lpBand
    omega
  · have hcalls := Nat.div_mul_le_self (d - 1 - 2 ^ k * lpBand k d) (lpBand k d + 1)
    unfold lpBandCalls
    obtain h | h := max_choice 1 ((d - 1 - 2 ^ k * lpBand k d) / (lpBand k d + 1)) <;> rw [h] <;> omega

/-- The number of calls and the distance before the call that reaches the input, from the distance `d` after `n` calls
and at most `bands` bands on. -/
def lpRun (k : Nat) : (bands n d : Nat) → Nat × Nat
  | 0, n, d => (n, d)
  | bands + 1, n, d =>
    if lpRest k d = 0 then (n, d)
    else lpRun k bands (n + lpBandCalls k d) (d - lpBandCalls k d * (lpBand k d + 1))

/-- R180: `lpRun` counts calls of the filter. -/
theorem lpRest_iterate_lpRun {k bands n d start : Nat} (h : (lpRest k)^[n] start = d) :
    (lpRest k)^[(lpRun k bands n d).1] start = (lpRun k bands n d).2 := by
  induction bands generalizing n d with
  | zero => exact h
  | succ bands ih =>
    rw [lpRun]
    split_ifs with hrest
    · exact h
    · have hd : 0 < d := Nat.pos_of_ne_zero fun h0 => hrest (by simp [h0])
      apply ih
      rw [add_comm, Function.iterate_add_apply, h, lpRest_iterate_lpBandCalls hd]

/-- R180: the table of the rule, each row the shift and its number of TICKs. -/
def lpTable : List (Nat × Nat) :=
  [(0, 1), (1, 16), (2, 37), (3, 72), (4, 139), (5, 259), (6, 477), (7, 870), (8, 1565), (9, 2780), (10, 4856),
    (11, 8310), (12, 13847), (13, 22264), (14, 34133), (15, 49151)]

/-- R180: the runs of the table, evaluated: one call before its number a distance is left, which that call closes. -/
theorem lpRun_of_mem_lpTable : ∀ p ∈ lpTable,
    (lpRun p.1 500 0 65535).1 + 1 = p.2 ∧ (lpRun p.1 500 0 65535).2 ≠ 0 ∧
      lpRest p.1 (lpRun p.1 500 0 65535).2 = 0 := by
  decide +kernel

/-- R180: the distance 65535 is closed by exactly the calls of the table. -/
theorem lpRest_iterate_of_mem_lpTable {p : Nat × Nat} (hp : p ∈ lpTable) :
    (lpRest p.1)^[p.2] 65535 = 0 ∧ (lpRest p.1)^[p.2 - 1] 65535 ≠ 0 := by
  obtain ⟨hcalls, hleft, hclosed⟩ := lpRun_of_mem_lpTable p hp
  have hrun := lpRest_iterate_lpRun (k := p.1) (bands := 500) (n := 0) (d := 65535) rfl
  rw [← hcalls]
  constructor
  · rw [Function.iterate_succ_apply', hrun, hclosed]
  · rw [Nat.add_sub_cancel, hrun]
    exact hleft

/-! ### Gain and compensation (R174, R175) -/

theorem compQ7_eq (f : Nat) : compQ7 f = 128 + min f 4000 * 64 / 4000 := rfl

/-- R174: the compensation at the knee and above. -/
theorem compQ7_of_le {f : Nat} (h : 4000 ≤ f) : compQ7 f = 192 := by rw [compQ7_eq, min_eq_right h]

/-- R174: the range of the compensation. -/
theorem compQ7_bounds (f : Nat) : 128 ≤ compQ7 f ∧ compQ7 f ≤ 192 := by
  rw [compQ7_eq]
  omega

/-- R174: the compensation is non-decreasing. -/
theorem compQ7_mono : Monotone compQ7 := by
  intro f f' h
  rw [compQ7_eq, compQ7_eq]
  gcongr

/-- R175: the effective gain is a quotient of natural numbers. -/
theorem effectiveGain_eq (g f : Nat) : effectiveGain g f = (g * compQ7 f / 128 : Nat) := by
  unfold effectiveGain asr fdiv
  push_cast
  rfl

/-- R175: the gain stage is a saturated floor. -/
theorem applyGain_eq (x : Int) (g f : Nat) :
    applyGain x g f = max (-32768) (min 32767 (x * effectiveGain g f / 128)) := by
  have hshift : asr (x * effectiveGain g f) 7 = x * effectiveGain g f / 128 := rfl
  rw [applyGain, hshift, sat16, clamp, Config.satMin, Config.satMax]
  omega

/-- R175: the largest effective gain. -/
theorem effectiveGain_le {g : Nat} (hg : g ≤ 255) (f : Nat) : effectiveGain g f ≤ 382 := by
  rw [effectiveGain_eq]
  have hprod : g * compQ7 f ≤ 255 * 192 := Nat.mul_le_mul hg (compQ7_bounds f).2
  omega

/-! ### The fields of SC_CTRL (R39, R178) -/

/-- R178: the value of SC_CTRL written from its fields. -/
theorem scCtrlOf_toNat (sym : BitVec 1) (v : BitVec 15) : (scCtrlOf sym v).toNat = 32768 * sym.toNat + v.toNat := by
  rw [scCtrlOf, toNat_append_add]
  omega

/-- R39: THRESH is read back. -/
theorem threshOf_scCtrlOf (sym : BitVec 1) (v : BitVec 15) : threshOf (scCtrlOf sym v) = v := by
  apply BitVec.eq_of_toNat_eq
  rw [threshOf, BitVec.extractLsb'_toNat, scCtrlOf_toNat, Nat.shiftRight_zero]
  omega

/-- R39: SYM is read back. -/
theorem symOf_scCtrlOf (sym : BitVec 1) (v : BitVec 15) : symOf (scCtrlOf sym v) = sym := by
  apply BitVec.eq_of_toNat_eq
  rw [symOf, BitVec.extractLsb'_toNat, scCtrlOf_toNat, Nat.shiftRight_eq_div_pow]
  omega

/-! ### The soft clipper (R177) -/

/-- R177: the curve of the soft clipper over the threshold `t`, which both modes share. -/
def clipKnee (t v : Int) : Int := if v ≤ t then v else t + (v - t) / 2

/-- R177: the one-sided mode is the curve on the sample. -/
theorem softClip_oneSided (x : Int) (t : Nat) : softClip x t 0#1 = clipKnee t x := rfl

/-- R177: the symmetric mode is the curve on the magnitude, with the sign of the sample. -/
theorem softClip_symmetric (x : Int) (t : Nat) : softClip x t 1#1 = x.sign * clipKnee t x.natAbs := by
  have hmode : softClip x t 1#1 = if (x.natAbs : Int) ≤ t then x else x.sign * (t + (x.natAbs - t) / 2) := rfl
  rw [hmode, clipKnee, mul_ite, Int.sign_mul_natAbs]

theorem clipKnee_of_le {t v : Int} (h : v ≤ t) : clipKnee t v = v := if_pos h

theorem clipKnee_of_lt {t v : Int} (h : t < v) : clipKnee t v = t + (v - t) / 2 := if_neg (not_le.2 h)

theorem clipKnee_le_self (t v : Int) : clipKnee t v ≤ v := by
  unfold clipKnee
  omega

theorem min_le_clipKnee (t v : Int) : min t v ≤ clipKnee t v := by
  unfold clipKnee
  omega

/-- R177: one above the threshold is clipped to it. -/
theorem clipKnee_succ (t : Int) : clipKnee t (t + 1) = t := by
  unfold clipKnee
  omega

theorem clipKnee_mono (t : Int) : Monotone (clipKnee t) := by
  intro v w h
  unfold clipKnee
  omega

/-- R177: the magnitude 32768 is above every threshold, so it comes down into the sample range. -/
theorem clipKnee_le_satMax {t v : Int} (ht : t ≤ 32767) (hv : v ≤ 32768) : clipKnee t v ≤ 32767 := by
  unfold clipKnee
  omega

theorem softClip_of_nonneg {x : Int} (t : Nat) (sym : BitVec 1) (h : 0 ≤ x) : softClip x t sym = clipKnee t x := by
  obtain rfl | rfl := BitVec.eq_zero_or_eq_one sym
  · exact softClip_oneSided x t
  · obtain rfl | hpos := h.eq_or_lt
    · rw [softClip_symmetric, clipKnee_of_le (by omega)]
      rfl
    · rw [softClip_symmetric, Int.sign_eq_one_of_pos hpos, Int.natAbs_of_nonneg h, one_mul]

/-- R177: the symmetric mode is odd. -/
theorem softClip_neg (x : Int) (t : Nat) : softClip (-x) t 1#1 = -softClip x t 1#1 := by
  rw [softClip_symmetric, softClip_symmetric, Int.sign_neg, Int.natAbs_neg, neg_mul]

theorem softClip_symmetric_of_nonpos {x : Int} (t : Nat) (h : x ≤ 0) : softClip x t 1#1 = -clipKnee t (-x) := by
  rw [← softClip_of_nonneg t 1#1 (by omega : 0 ≤ -x), softClip_neg, neg_neg]

theorem clipKnee_natAbs_nonneg (t : Nat) (x : Int) : 0 ≤ clipKnee t x.natAbs := by
  have := min_le_clipKnee t x.natAbs
  omega

/-- R177: the symmetric mode clips the magnitude. -/
theorem natAbs_softClip_symmetric (x : Int) (t : Nat) : ((softClip x t 1#1).natAbs : Int) = clipKnee t x.natAbs := by
  have hknee := clipKnee_natAbs_nonneg t x
  obtain h | h := le_total 0 x
  · rw [Int.natAbs_of_nonneg h] at hknee ⊢
    rw [softClip_of_nonneg t _ h, Int.natAbs_of_nonneg hknee]
  · rw [Int.ofNat_natAbs_of_nonpos h] at hknee ⊢
    rw [softClip_symmetric_of_nonpos t h, Int.natAbs_neg, Int.natAbs_of_nonneg hknee]

/-- R177: the soft clipper is non-decreasing; the symmetric mode by oddness, with 0 between the two signs. -/
theorem softClip_mono {x y : Int} (t : Nat) (sym : BitVec 1) (h : x ≤ y) : softClip x t sym ≤ softClip y t sym := by
  obtain rfl | rfl := BitVec.eq_zero_or_eq_one sym
  · exact clipKnee_mono t h
  · obtain hx | hx := le_total 0 x
    · rw [softClip_of_nonneg t _ hx, softClip_of_nonneg t _ (hx.trans h)]
      exact clipKnee_mono t h
    · rw [softClip_symmetric_of_nonpos t hx]
      obtain hy | hy := le_total 0 y
      · have hlo := min_le_clipKnee t (-x)
        have hhi := min_le_clipKnee t y
        rw [softClip_of_nonneg t _ hy]
        omega
      · rw [softClip_symmetric_of_nonpos t hy]
        exact neg_le_neg (clipKnee_mono t (neg_le_neg h))

/-- R177: the one-sided mode never leaves the sample range. -/
theorem softClip_oneSided_bounds {x : Int} (t : Nat) (hlo : -32768 ≤ x) (hhi : x ≤ 32767) :
    -32768 ≤ softClip x t 0#1 ∧ softClip x t 0#1 ≤ 32767 := by
  have hmin := min_le_clipKnee t x
  have hself := clipKnee_le_self t x
  rw [softClip_oneSided]
  omega

/-- R177: the symmetric mode stays in the range, and above its least value. -/
theorem softClip_symmetric_bounds {x : Int} {t : Nat} (ht : t ≤ 32767) (hlo : -32768 ≤ x) (hhi : x ≤ 32767) :
    -32767 ≤ softClip x t 1#1 ∧ softClip x t 1#1 ≤ 32767 := by
  have hmag : clipKnee t x.natAbs ≤ 32767 := clipKnee_le_satMax (by omega) (by omega)
  rw [← natAbs_softClip_symmetric] at hmag
  omega

end Sys2Proof.Machine

open Sys2Proof Sys2Proof.Machine

/-- Settles O30: the step toward the input is `lpStep`, a quotient rounded up. -/
theorem lowPassLaws : Obligations.LowPassLaws := by
  intro k p x
  obtain ⟨hmin, hmax⟩ := lowPass_mem k p x
  have hlt := mul_lpStep_lt k (x - p).natAbs
  have hle := le_mul_lpStep k (x - p).natAbs
  rw [mul_comm] at hlt hle
  rw [natAbs_lowPass_sub]
  exact ⟨hmin, hmax, mod_cast hlt, mod_cast hle, lowPass_zero p x, lowPass_neg k p x⟩

/-- Settles O31: the distance to the input steps by `lpRest`, which is monotone, so the longest distance 65535 takes the
longest. -/
theorem lowPassConverges : Obligations.LowPassConverges := by
  refine ⟨fun k x q hq => ?_, fun k x q y r h => ?_, fun p hp => ⟨fun x q hx hx' hq hq' => ?_, ?_⟩⟩
  · have hpos : 0 < (x - q).natAbs := Int.natAbs_pos.2 (sub_ne_zero.2 hq.symm)
    have hstep := lpStep_pos (k := k) hpos
    have hsum := lpRest_add_lpStep k (x - q).natAbs
    have hscaled : 2 ^ k * lpRest k (x - q).natAbs + 2 ^ k * lpStep k (x - q).natAbs = 2 ^ k * (x - q).natAbs := by
      rw [← mul_add, hsum]
    have hle := le_mul_lpStep k (x - q).natAbs
    rw [natAbs_sub_lowPass]
    omega
  · rw [natAbs_sub_lowPass, natAbs_sub_lowPass]
    exact lpRest_mono k h
  · have hdist : (x - q).natAbs ≤ 65535 := by omega
    have hmono := (lpRest_mono p.1).iterate p.2 hdist
    rw [(lpRest_iterate_of_mem_lpTable hp).1] at hmono
    exact lowPass_iterate_eq_iff.2 (Nat.le_zero.1 hmono)
  · exact fun h => (lpRest_iterate_of_mem_lpTable hp).2 (lowPass_iterate_eq_iff.1 h)

/-- Settles O32: from LP_PREV = 0 the output is the step itself. -/
theorem lowPassAfterReset : Obligations.LowPassAfterReset := by
  intro k x hk hx
  obtain ⟨n, rfl⟩ := Int.eq_ofNat_of_zero_le hx.le
  have hn : 0 < n := by omega
  have hlt := mul_lpStep_lt k n
  have hle := le_mul_lpStep k n
  have hone : lpStep k 1 = 1 := le_antisymm (lpStep_le_self k 1) (lpStep_pos (by decide))
  rw [lowPass_of_reset hx, lowPass_of_reset (by decide : (0 : Int) < 1), Int.natAbs_natCast, Int.natAbs_one, hone]
  refine ⟨by rw [mul_comm]; exact_mod_cast hle, ?_, fun h2 => ⟨mod_cast lpStep_pos hn, ?_⟩, rfl⟩
  · rw [sub_one_mul, mul_comm, sub_lt_iff_lt_add]
    exact_mod_cast hlt
  · exact_mod_cast lpStep_lt_self hk (by omega)

/-- Settles O29: scaling is a truncated quotient, whose magnitude is the quotient of the magnitudes. -/
theorem scaleLaws : Obligations.ScaleLaws := by
  intro raw amp hamp
  refine ⟨natAbs_scale raw amp, ?_, scale_mul_self_nonneg raw amp, scale_neg raw amp, ?_, ?_⟩
  · rw [natAbs_scale]
    exact Nat.div_le_of_le_mul (by rw [mul_comm 1000]; exact Nat.mul_le_mul_left _ hamp)
  · exact Int.mul_tdiv_cancel raw (by decide)
  · simp [scale, tdiv]

/-- Settles O33: both stages are floors, the gain stage saturated. -/
theorem gainLaws : Obligations.GainLaws := by
  refine ⟨fun f => ⟨(compQ7_bounds f).1, (compQ7_bounds f).2, compQ7_mono (Nat.le_succ f), compQ7_of_le, fun h => ?_⟩,
    fun g f hg => ⟨?_, effectiveGain_le hg f, effectiveGain_eq g f⟩, fun x g f => ⟨applyGain_eq x g f, ?_⟩,
    fun f hf => ?_, fun g hg => ?_⟩
  · rw [compQ7_eq, min_eq_left h.le]
  · rw [effectiveGain_eq]
    exact Int.natCast_nonneg _
  · rw [applyGain_eq, effectiveGain_eq]
    simp
  · rw [applyGain_eq, applyGain_eq, effectiveGain_eq, compQ7_of_le hf]
    decide
  · have hcomp : compQ7 2000 = 160 := by decide
    rw [applyGain_eq, effectiveGain_eq, hcomp]
    omega

/-- Settles O34: both modes are `clipKnee`, on the sample or on its magnitude. -/
theorem softClipLaws : Obligations.SoftClipLaws := by
  intro t x y ht hx hx' _ _
  have hone := softClip_oneSided_bounds t hx hx'
  obtain ⟨hlo, hhi⟩ := softClip_symmetric_bounds ht hx hx'
  refine ⟨fun sym => ?_, hlo, fun sym => softClip_mono t sym, clipKnee_of_le, clipKnee_of_lt, fun h => ?_, fun h => ?_,
    softClip_neg x t, fun sym => ?_⟩
  · obtain rfl | rfl := BitVec.eq_zero_or_eq_one sym
    · exact hone
    · exact ⟨by omega, hhi⟩
  · rw [softClip_symmetric, clipKnee_of_le h, Int.sign_mul_natAbs]
  · have hmag := natAbs_softClip_symmetric x t
    rw [clipKnee_of_lt (by omega)] at hmag
    omega
  · rw [softClip_of_nonneg t sym (by omega), clipKnee_succ]

/-- Settles O11: the words by their opcodes, the meanings by definition. -/
theorem shiftAndGainCommandsResult : Obligations.ShiftAndGainCommandsResult :=
  fun _ _ _ => ⟨by simp [encode_toNat, Laws.Spelling.opcode, Instr.arg],
    by simp [encode_toNat, Laws.Spelling.opcode, Instr.arg], rfl, rfl⟩

/-- Settles O12: SC_CTRL is the concatenation of its two fields. -/
theorem setThreshResult : Obligations.SetThreshResult :=
  fun sym v _ => ⟨by simp [encode_toNat, Laws.Spelling.opcode, Instr.arg, add_assoc, mul_comm], scCtrlOf sym v,
    scCtrlOf_toNat sym v, threshOf_scCtrlOf sym v, symOf_scCtrlOf sym v, rfl⟩

/-- Settles O16: the meaning by definition. -/
theorem filterResetResult : Obligations.FilterResetResult := fun _ => ⟨rfl, rfl⟩
end

section
/-! PROOFS, family 43_pwm_mapper: the mapping of a sample to a duty value, its two configuration commands, and what an
instruction shows (R200 to R206, R218, R226). -/

namespace Sys2Proof.Machine

open Sys2Proof

/-! ### The mapping (R200, R205) -/

theorem asr_sixteen (a : Int) : asr a 16 = a / 65536 := rfl

/-- R200: the offset of a sample from the center is a floor. -/
theorem pwmMap_eq (c : Int) (m center : Nat) : pwmMap c m center = clamp (center + c * m / 65536) 0 m := by
  rw [pwmMap, asr_sixteen]

/-- R11: `clamp` is non-decreasing. -/
theorem clamp_mono (lo hi : Int) : Monotone (clamp · lo hi) := by
  intro v v' h
  simp only [clamp]
  omega

/-- R205: the mapping is non-decreasing in the sample: the product, the floor, the sum and the clamp all are. -/
theorem pwmMap_mono (m center : Nat) : Monotone (pwmMap · m center) := by
  intro c c' h
  have hprod : c * m ≤ c' * m := mul_le_mul_of_nonneg_right h (Int.natCast_nonneg m)
  exact clamp_mono 0 m (Int.add_le_add_left (Int.ediv_le_ediv (by decide) hprod) center)

/-- R205: silence maps to the center, cut off at the maximum. -/
theorem pwmMap_zero (m center : Nat) : pwmMap 0 m center = min center m := by
  rw [pwmMap_eq, zero_mul, clamp]
  omega

/-- R205: a sample moves the duty by at most half of the maximum, rounded up below the center and down above it. -/
theorem pwm_offset_bounds {c : Int} (m : Nat) (hlo : -32768 ≤ c) (hhi : c ≤ 32767) :
    -((m + 1) / 2 : Nat) ≤ c * m / 65536 ∧ c * m / 65536 ≤ (m / 2 : Nat) := by
  have hm : (0 : Int) ≤ m := Int.natCast_nonneg m
  have hprod_lo : -32768 * m ≤ c * m := mul_le_mul_of_nonneg_right hlo hm
  have hprod_hi : c * m ≤ 32767 * m := mul_le_mul_of_nonneg_right hhi hm
  omega

/-- R205: around the middle of the range the clamp does nothing, since the two halves of `pwm_offset_bounds` make up the
range. -/
theorem pwmMap_centered {c : Int} (m : Nat) (hlo : -32768 ≤ c) (hhi : c ≤ 32767) :
    pwmMap c m ((m + 1) / 2) = ((m + 1) / 2 : Nat) + c * m / 65536 := by
  obtain ⟨hbelow, habove⟩ := pwm_offset_bounds m hlo hhi
  rw [pwmMap_eq]
  exact clamp_of_mem (by omega) (by omega)

/-! ### What an instruction shows (R206, R218, R226) -/

/-- What the instruction `i` shows on its way from `s` to `t`: TICK the duty value it has written, READ the value at its
address, which for an unmapped one is 0 (R216), and every other instruction nothing. -/
def shownOutputs (i : Instr) (s t : State) : List Output :=
  match i with
  | .tick => [.pwm t.regs.pwmDuty]
  | .read a => [.readData ((readValue a s.regs).getD 0#32)]
  | _ => []

/-- R218: an unmapped address has no value. -/
theorem readValue_of_unmapped {a : BitVec 5} (h : ¬ addressInRange a) (r : Regs) : readValue a r = none :=
  Option.not_isSome_iff_eq_none.1 (mt (readValue_isSome_iff a r).1 h)

/-- R206: a range-checked write of registers shows nothing, whether it is accepted or rejected. -/
theorem outputs_of_checked_write {p : Prop} [Decidable p] {r : Regs} {c : CmdError} {w : Word} {op : BitVec 8}
    {s t : State} (hw : opField w = op) (hop : op ≠ Opcode.read.code)
    (h : (if p then .next (s.withRegs r) else .next (rejectCommand c w s) : Result) = .next t) :
    t.outputs = s.outputs := by
  obtain ⟨-, rfl⟩ | ⟨-, rfl⟩ := next_of_ite h
  · exact State.withRegs_outputs s r
  · rw [rejectCommand_of_ne_read (hw.trans_ne hop), State.withRegs_outputs]

/-- R216, R218: READ shows one word, of a mapped address its value and of an unmapped one 0. -/
theorem execRead_outputs {a : BitVec 5} {s t : State} (h : execRead a s = .next t) :
    t.outputs = s.outputs ++ [.readData ((readValue a s.regs).getD 0#32)] := by
  obtain ⟨-, rfl⟩ | ⟨ha, rfl⟩ := next_of_ite h
  · exact State.emit_outputs s _
  · obtain ⟨-, -, -, hout⟩ := rejectCommand_spec .range (encode (.read a)) s
    have hop : opField (encode (.read a)) = 0x20#8 := Laws.Spelling.read a
    rw [hout, if_pos hop, readValue_of_unmapped ha, Option.getD_none]

/-- R206, R226: TICK shows the duty value that it leaves in PWM_DUTY. -/
theorem execTick_outputs {s t : State} (h : execTick s = .next t) : t.outputs = s.outputs ++ [.pwm t.regs.pwmDuty] := by
  obtain ⟨raw, env, -, -, rfl⟩ := execTick_next h
  simp

/-- R226: everything that an instruction which completes shows. -/
theorem exec_outputs {i : Instr} {s t : State} (h : exec i s = .next t) :
    t.outputs = s.outputs ++ shownOutputs i s t := by
  cases i with
  | nop | setAttack _ | setDecay _ | setRelease _ | setGain _ | setThresh _ _ | setLpShift _ | setPwmMax _
  | setPwmCenter _ | noteOn _ | filterReset =>
    cases h
    exact (List.append_nil _).symm
  | setFreq v =>
    simpa [shownOutputs] using outputs_of_checked_write (op := 0x01#8) (Laws.Spelling.setFreq v) (by decide) h
  | setWave v =>
    simpa [shownOutputs] using outputs_of_checked_write (op := 0x02#8) (Laws.Spelling.setWave v) (by decide) h
  | setSustain v =>
    simpa [shownOutputs] using outputs_of_checked_write (op := 0x05#8) (Laws.Spelling.setSustain v) (by decide) h
  | noteOff =>
    obtain ⟨-, rfl⟩ | ⟨-, rfl⟩ := next_of_ite h
    · exact (List.append_nil _).symm
    · exact (List.append_nil _).symm
  | read a => exact execRead_outputs h
  | tick => exact execTick_outputs h

/-- R226: only TICK and READ show anything. -/
theorem shownOutputs_eq_nil {i : Instr} (htick : i ≠ .tick) (hread : ∀ a, i ≠ .read a) (s t : State) :
    shownOutputs i s t = [] := by
  cases i with
  | tick => exact absurd rfl htick
  | read a => exact absurd rfl (hread a)
  | _ => rfl

end Sys2Proof.Machine

open Sys2Proof Sys2Proof.Machine

/-- Settles O35: the clamp gives the range, each stage of the mapping is non-decreasing, and the offset of a sample is
at most half of the range. -/
theorem pwmMapLaws : Obligations.PwmMapLaws := by
  intro c c' m center _ _
  refine ⟨pwmMap_bounds c m center, fun h => pwmMap_mono m center h, pwmMap_zero m center, fun hlo hhi => ?_⟩
  obtain ⟨hbelow, habove⟩ := pwm_offset_bounds m hlo hhi
  rw [asr_sixteen]
  exact ⟨by omega, habove, pwmMap_centered m hlo hhi⟩

/-- Settles O49: the three clauses are the three cases of `shownOutputs`. -/
theorem outputsOfEachInstruction : Obligations.OutputsOfEachInstruction := by
  intro i s t h
  have hout := exec_outputs h
  refine ⟨?_, ?_, fun htick hread => ?_⟩
  · rintro rfl
    exact hout
  · rintro a rfl
    exact ⟨_, hout⟩
  · rw [hout, shownOutputs_eq_nil htick hread, List.append_nil]

/-- Settles O13: the words by their opcodes, the meanings by definition. -/
theorem pwmCommandsResult : Obligations.PwmCommandsResult :=
  fun _ _ => ⟨by simp [encode_toNat, Laws.Spelling.opcode, Instr.arg],
    by simp [encode_toNat, Laws.Spelling.opcode, Instr.arg], rfl, rfl⟩
end

section
/-! PROOFS, family 44_host_and_tick: what a step does with its input and why no run stops (R215, R221, R226), and the
read-data lines (R218, R219). -/

namespace Sys2Proof.Machine

open Sys2Proof

/-! ### The input of a step (R215) -/

/-- R215: a transaction asks for what its bytes decode to. -/
theorem nextAction_command {s : State} {bs : List Byte} {rest : List Event} (h : s.pending = .command bs :: rest) :
    nextAction s = commandAction bs (s.withPending rest) := by
  simp [nextAction, h]

/-- R215: the transaction of a word that decodes to an instruction asks for the instruction. -/
theorem commandAction_word {w : Word} {i : Instr} (h : decodeWord w = .instr i) (s : State) :
    commandAction (bytesOfWord w) s = .run i s := by
  simp [commandAction, h]

/-- R252: nothing is presented. -/
theorem nextAction_nil {s : State} (h : s.pending = []) : nextAction s = .idle := by
  simp [nextAction, h]

/-- R215, R221: the inputs that ask for an instruction, and the inputs that are left for the steps after it. -/
theorem nextAction_run {s u : State} {i : Instr} (h : nextAction s = .run i u) :
    (i = .tick ∧ ∃ rest, s.pending = .tickPulse :: rest ∧ u.pending = rest) ∨
      (i = .tick ∧ ∃ bs rest, s.pending = .tickAndCommand bs :: rest ∧ u.pending = .command bs :: rest) ∨
      ∃ bs rest, s.pending = .command bs :: rest ∧ decodeBytes bs = .instr i ∧ u.pending = rest := by
  unfold nextAction at h
  split at h
  · cases h
  · cases h
  next rest hp =>
    cases h
    exact .inl ⟨rfl, rest, hp, rfl⟩
  next bs rest hp =>
    cases h
    exact .inr (.inl ⟨rfl, bs, rest, hp, rfl⟩)
  next bs rest hp =>
    unfold commandAction at h
    split at h <;> cases h
    next hdec => exact .inr (.inr ⟨bs, rest, hp, hdec, rfl⟩)

/-! ### Every step completes (R221, R226) -/

/-- A meaning with a range check completes on either side of it. -/
theorem exists_next_of_ite (p : Prop) [Decidable p] (u v : State) :
    ∃ t, (if p then .next u else .next v : Result) = .next t := by
  split
  · exact ⟨u, rfl⟩
  · exact ⟨v, rfl⟩

/-- R226: from the invariant every instruction completes; only TICK needs it. -/
theorem exec_completes (i : Instr) {s : State} (h : s.Inv) : ∃ t, exec i s = .next t :=
  match i with
  | .nop | .setAttack _ | .setDecay _ | .setRelease _ | .setGain _ | .setThresh _ _ | .setLpShift _ | .setPwmMax _
  | .setPwmCenter _ | .noteOn _ | .filterReset => ⟨_, rfl⟩
  | .setFreq _ | .setWave _ | .setSustain _ | .noteOff | .read _ => exists_next_of_ite _ _ _
  | .tick => (execTick_completes_iff s).2 h.selectors_le

/-- R63, R64: of whole words none is refused. -/
theorem State.InputsWhole.nextAction_ne_refuse {s : State} (h : s.InputsWhole) : nextAction s ≠ .refuse := by
  intro hrefuse
  obtain ⟨bs, rest, hp, hlen⟩ := (nextAction_eq_refuse_iff s).1 hrefuse
  exact hlen (of_decide_eq_true (h (.command bs) (by simp [hp])))

/-- R226: from the invariant a step completes, unless it is asked to refuse its input. -/
theorem step_completes {s : State} (hs : s.Inv) (hin : nextAction s ≠ .refuse) : ∃ t, step s = .next t := by
  cases h : nextAction s with
  | idle => exact ⟨_, step_of_idle hs h⟩
  | reset u => exact ⟨_, step_of_reset hs.1 h⟩
  | reject c w u => exact ⟨_, step_of_reject hs h⟩
  | refuse => exact absurd h hin
  | run i u =>
    obtain ⟨p, rfl⟩ := nextAction_state h
    rw [step_of_run hs h]
    exact exec_completes i (s := s.withPending p) hs

/-- R63, R66: the inputs that a step leaves are whole words if those before it were; the transaction of a joint input
stays. -/
theorem step_inputsWhole {s t : State} (h : step s = .next t) (hs : s.InputsWhole) : t.InputsWhole := by
  obtain ⟨-, hstep⟩ := step_cases h
  unfold State.InputsWhole at hs ⊢
  obtain ⟨rest, hp, rfl⟩ | ⟨-, ⟨-, rfl⟩ | ⟨i, u, hu, hexec⟩ | ⟨c, w, u, hu, rfl⟩⟩ := hstep
  · rw [hp, List.forall_mem_cons] at hs
    exact hs.2
  · exact hs
  · rw [exec_pending hexec]
    obtain ⟨-, rest, hp, hu⟩ | ⟨-, bs, rest, hp, hu⟩ | ⟨bs, rest, hp, -, hu⟩ := nextAction_run hu <;>
      rw [hp, List.forall_mem_cons] at hs <;> rw [hu]
    · exact hs.2
    · exact List.forall_mem_cons.2 hs
    · exact hs.2
  · obtain ⟨bs, rest, hp, -, rfl⟩ := nextAction_reject hu
    rw [hp, List.forall_mem_cons] at hs
    rw [rejectCommand_pending]
    exact hs.2

/-! ### Reading (R218, R219) -/

/-- R11: zero extension keeps the unsigned value. -/
theorem zext32_toNat {n : Nat} (hn : n ≤ 32) (v : BitVec n) : (zext32 v).toNat = v.toNat :=
  BitVec.toNat_setWidth_of_le hn

/-- R11: sign extension keeps the signed value. -/
theorem sext32_toInt (v : BitVec 16) : (sext32 v).toInt = v.toInt :=
  BitVec.toInt_signExtend_of_le (by decide)

/-- R46: STATUS is the sum of its fields, each at its place. -/
theorem statusWord_toNat (r : Regs) :
    (statusWord r).toNat = r.envState.toNat + 2 ^ 4 * r.err.toNat + 2 ^ 8 * r.errCode.toNat := by
  simp only [statusWord, toNat_append_add, BitVec.toNat_zero]
  omega

/-- R218: READ of an address that has a value. -/
theorem exec_read_of_mapped {a : BitVec 5} {s : State} {v : Word} (h : readValue a s.regs = some v) :
    exec (.read a) s = .next { s with outputs := s.outputs ++ [.readData v] } := by
  have hmapped : addressInRange a := (readValue_isSome_iff a s.regs).1 (by simp [h])
  have hread : exec (.read a) s = .next (s.emit (.readData ((readValue a s.regs).getD 0#32))) := if_pos hmapped
  rw [hread, h]
  rfl

/-- R216, R218: READ of an address that has none is rejected, and the host receives 0. -/
theorem exec_read_of_unmapped {a : BitVec 5} (s : State) (h : ¬ addressInRange a) :
    exec (.read a) s =
      .next { s with
        regs := recordError .range (encode (.read a)) s.regs, outputs := s.outputs ++ [.readData 0#32] } := by
  have hreject : rejectCommand .range (encode (.read a)) s =
      (s.withRegs (recordError .range (encode (.read a)) s.regs)).emit (.readData 0#32) :=
    if_pos (Laws.Spelling.read a)
  exact (if_neg h).trans (congrArg Host.Outcome.next hreject)

end Sys2Proof.Machine

open Sys2Proof Sys2Proof.Machine

/-- Settles O46, by induction on the steps: a step from the invariant completes (`step_completes`), and leaves the
invariant and whole words for the rest of the run. -/
theorem blockNeverHalts : Obligations.BlockNeverHalts := by
  intro n
  induction n with
  | zero => exact fun s hs _ => ⟨s, rfl, hs⟩
  | succ n ih =>
    intro s hs hin
    obtain ⟨t, hstep⟩ := step_completes hs hin.nextAction_ne_refuse
    rw [runSteps_succ_of n hstep]
    exact ih t (step_inv hstep) (step_inputsWhole hstep hin)

/-- Settles O39: the next action of each of the three traces, which a step from the invariant performs. -/
theorem stepRunsDecodedInstruction : Obligations.StepRunsDecodedInstruction := by
  refine ⟨fun s w i rest hs hp hdec => ?_, fun s rest hs hp => ?_, fun s hs hp => ?_⟩
  · exact step_of_run hs ((nextAction_command hp).trans (commandAction_word hdec _))
  · exact step_of_run hs (nextAction_tickPulse hp)
  · exact step_of_idle hs (nextAction_nil hp)

/-- Settles O17: the value at each mapped address, by its entry of the read map. -/
theorem readResult : Obligations.ReadResult := by
  refine ⟨fun s p hp => ?_, fun s p hp => ?_, fun a s ha => exec_read_of_unmapped s (by omega)⟩
  · have hvalue : ∃ v, readValue p.1 s.regs = some v ∧ v.toNat = p.2 := by
      revert p
      simp [readValue, readMap, zext32_toNat, statusWord_toNat]
    obtain ⟨v, hread, hv⟩ := hvalue
    exact ⟨v, hv, exec_read_of_mapped hread⟩
  · have hvalue : ∃ v, readValue p.1 s.regs = some v ∧ v.toInt = p.2 := by
      revert p
      simp [readValue, readMap, sext32_toInt]
    obtain ⟨v, hread, hv⟩ := hvalue
    exact ⟨v, hv, exec_read_of_mapped hread⟩
end

section
/-! PROOFS, family 44_host_and_tick: the pipeline of TICK (R220) and the output in IDLE (R221). Each stage of the chain
stays in the range of its register, so the registers hold the exact integers of the rules (R10). -/

namespace Sys2Proof.Machine

open Sys2Proof

/-! ### The ranges of the stages (R10, R179) -/

/-- The range of a signed 16-bit register (R7). -/
def InSampleRange (v : Int) : Prop := -32768 ≤ v ∧ v ≤ 32767

theorem inSampleRange_toInt (v : BitVec 16) : InSampleRange v.toInt :=
  ⟨v.le_toInt, Int.le_of_lt_add_one v.toInt_lt⟩

/-- R114: the raw sample. -/
theorem rawSample_inRange {r : Regs} {raw : Int} (h : rawSample r = some raw) : InSampleRange raw := by
  obtain ⟨-, -, -, hrange⟩ := waveformRange _ _ _ _ h
  exact hrange

/-- R170: a scaled sample lies between 0 and the raw one. -/
theorem scale_mem (raw : Int) {amp : Nat} (h : amp ≤ 1000) : min 0 raw ≤ scale raw amp ∧ scale raw amp ≤ max 0 raw := by
  have hmag : (scale raw amp).natAbs ≤ raw.natAbs := by
    rw [natAbs_scale]
    exact Nat.div_le_of_le_mul (by rw [mul_comm 1000]; exact Nat.mul_le_mul_left _ h)
  obtain hraw | hraw := le_total 0 raw
  · have hsign := scale_nonneg amp hraw
    omega
  · have hsign := scale_nonneg amp (Int.neg_nonneg_of_nonpos hraw)
    rw [scale_neg] at hsign
    omega

theorem scale_zero (raw : Int) : scale raw 0 = 0 := by
  simp [scale, tdiv]

/-- R171, R179: the low-pass output of a TICK lies between the last one and the scaled sample. -/
theorem tickLowPass_inRange {raw : Int} {amp : BitVec 10} (hraw : InSampleRange raw) (hamp : amp.toNat ≤ 1000)
    (r : Regs) : InSampleRange (tickLowPass raw amp r) := by
  obtain ⟨hraw_lo, hraw_hi⟩ := hraw
  obtain ⟨hprev_lo, hprev_hi⟩ := inSampleRange_toInt r.lpPrev
  obtain ⟨hscale_lo, hscale_hi⟩ := scale_mem raw hamp
  obtain ⟨hlo, hhi⟩ := lowPass_mem r.lpShift.toNat r.lpPrev.toInt (scale raw amp.toNat)
  unfold InSampleRange tickLowPass
  omega

/-- R175, R177, R179: the gain saturates and the soft clipper does not leave the range. -/
theorem tickClipped_inRange (lp : Int) (r : Regs) : InSampleRange (tickClipped lp r) := by
  obtain ⟨hlo, hhi⟩ := sat16_bounds (asr (lp * effectiveGain r.gain.toNat r.freqHz.toNat) 7)
  obtain ⟨hclip, -⟩ := softClipLaws (threshOf r.scCtrl).toNat (applyGain lp r.gain.toNat r.freqHz.toNat) 0
    (by omega) hlo hhi (by decide) (by decide)
  exact hclip (symOf r.scCtrl)

/-- R10: a value in the range of an unsigned register is kept by it. -/
theorem toNat_ofInt_of_lt {w : Nat} {v : Int} (h₀ : 0 ≤ v) (h : v < 2 ^ w) : ((BitVec.ofInt w v).toNat : Int) = v := by
  rw [BitVec.toNat_ofInt, Int.toNat_of_nonneg (Int.emod_nonneg _ (by positivity))]
  exact Int.emod_eq_of_lt h₀ (by exact_mod_cast h)

/-! ### The chain as the registers hold it (R179, R220) -/

/-- R179, R220: LP_PREV, SAMPLE_OUT and PWM_DUTY in `q` are the exact results of the chain in the TICK from `r` whose
raw sample is `raw`. -/
structure ChainTicked (raw : Int) (r q : Regs) : Prop where
  lpPrev : q.lpPrev.toInt = lowPass r.lpShift.toNat r.lpPrev.toInt (scale raw q.envAmp.toNat)
  sampleOut : q.sampleOut.toInt = tickClipped q.lpPrev.toInt r
  pwmDuty : (q.pwmDuty.toNat : Int) = pwmMap q.sampleOut.toInt r.pwmMax.toNat r.pwmCenter.toNat

/-- R10: no register of the chain loses anything. -/
theorem tickRegs_chainTicked {raw : Int} {env : EnvStep} (hraw : InSampleRange raw) (hamp : env.amp.toNat ≤ 1000)
    (r : Regs) : ChainTicked raw r (tickRegs raw env r) := by
  obtain ⟨hlp_lo, hlp_hi⟩ := tickLowPass_inRange hraw hamp r
  have hlp : (tickRegs raw env r).lpPrev.toInt = tickLowPass raw env.amp r := toInt_ofInt_sample hlp_lo hlp_hi
  obtain ⟨hclip_lo, hclip_hi⟩ := tickClipped_inRange (tickLowPass raw env.amp r) r
  have hclip : (tickRegs raw env r).sampleOut.toInt = tickClipped (tickLowPass raw env.amp r) r :=
    toInt_ofInt_sample hclip_lo hclip_hi
  obtain ⟨hduty_lo, hduty_hi⟩ :=
    pwmMap_bounds (tickClipped (tickLowPass raw env.amp r) r) r.pwmMax.toNat r.pwmCenter.toNat
  exact {
    lpPrev := hlp
    sampleOut := by rw [hclip, hlp]
    pwmDuty := by
      rw [hclip]
      exact toNat_ofInt_of_lt hduty_lo (by omega) }

/-- R48: from the invariant `EnvProcess` answers an amplitude in range. -/
theorem envProcess_amp_le {s : State} {env : EnvStep} (hs : s.Inv) (h : envProcess s.regs = some env) :
    env.amp.toNat ≤ 1000 := by
  obtain ⟨-, -, hrel, hlvl, -⟩ := hs
  exact (envProcess_inRange h hrel hlvl).2

/-- R179, R220: everything that a TICK from the invariant does to the chain. -/
theorem execTick_chainTicked {s t : State} (hs : s.Inv) (h : execTick s = .next t) :
    ∃ raw, ChainTicked raw s.regs t.regs := by
  obtain ⟨raw, env, hraw, henv, rfl⟩ := execTick_next h
  exact ⟨raw, tickRegs_chainTicked (rawSample_inRange hraw) (envProcess_amp_le hs henv) s.regs⟩

/-! ### Silence (R221) -/

/-- R175, R177: the gain and the soft clipper keep 0. -/
theorem tickClipped_zero (r : Regs) : tickClipped 0 r = 0 := by
  have hgain : applyGain 0 r.gain.toNat r.freqHz.toNat = 0 := by simp [applyGain_eq]
  rw [tickClipped, hgain, softClip_of_nonneg _ _ le_rfl, clipKnee_of_le (Int.natCast_nonneg _)]

/-- R180: the table of the rule has every shift, and none of them takes longer than the last. -/
theorem exists_mem_lpTable {k : Nat} (hk : k < 16) : ∃ p ∈ lpTable, p.1 = k ∧ p.2 ≤ 49151 :=
  (by decide : ∀ k < 16, ∃ p ∈ lpTable, p.1 = k ∧ p.2 ≤ 49151) k hk

/-- R180: 49151 calls bring any last output to the input, at every shift, and further calls stay there. -/
theorem lowPass_iterate_settles {k n : Nat} {x q : Int} (hk : k < 16) (hn : 49151 ≤ n) (hx : InSampleRange x)
    (hq : InSampleRange q) : (fun y => lowPass k y x)^[n] q = x := by
  obtain ⟨p, hp, rfl, hp_le⟩ := exists_mem_lpTable hk
  obtain ⟨-, -, htable⟩ := lowPassConverges
  have hreach : (fun y => lowPass p.1 y x)^[p.2] q = x := (htable p hp).1 x q hx.1 hx.2 hq.1 hq.2
  have hstay : Function.IsFixedPt (fun y => lowPass p.1 y x) x := by simp [Function.IsFixedPt, lowPass]
  rw [← Nat.sub_add_cancel (hp_le.trans hn), Function.iterate_add_apply, hreach]
  exact hstay.iterate _

/-- R221: the registers `n` TICKs after the registers `p` of an idle block. The low-pass filter runs on the input 0, and
a TICK that leaves it at 0 shows silence. -/
structure IdleRun (p : Regs) (n : Nat) (r : Regs) : Prop where
  state : r.envState = envIdle
  lpShift : r.lpShift = p.lpShift
  pwmMax : r.pwmMax = p.pwmMax
  pwmCenter : r.pwmCenter = p.pwmCenter
  lpPrev : r.lpPrev.toInt = (fun y => lowPass p.lpShift.toNat y 0)^[n] p.lpPrev.toInt
  silent : n ≠ 0 → r.lpPrev = 0#16 →
    r.sampleOut = 0#16 ∧ r.pwmDuty.toNat = min p.pwmCenter.toNat p.pwmMax.toNat

/-- R40, R42, R43: TICK writes none of the three configuration registers that `IdleRun` speaks of. -/
theorem execTick_keeps_lpShift_pwmRange {s t : State} (h : execTick s = .next t) :
    t.regs.lpShift = s.regs.lpShift ∧ t.regs.pwmMax = s.regs.pwmMax ∧ t.regs.pwmCenter = s.regs.pwmCenter := by
  obtain ⟨raw, env, -, -, rfl⟩ := execTick_next h
  exact ⟨rfl, rfl, rfl⟩

/-- R177, R205: a TICK that leaves LP_PREV at 0 shows silence. -/
theorem ChainTicked.silent {raw : Int} {r q : Regs} (h : ChainTicked raw r q) (hlp : q.lpPrev = 0#16) :
    q.sampleOut = 0#16 ∧ q.pwmDuty.toNat = min r.pwmCenter.toNat r.pwmMax.toNat := by
  have hsample : q.sampleOut.toInt = 0 := by rw [h.sampleOut, hlp, BitVec.toInt_zero, tickClipped_zero]
  have hduty := h.pwmDuty
  rw [hsample, pwmMap_zero] at hduty
  exact ⟨BitVec.eq_of_toInt_eq hsample, mod_cast hduty⟩

/-- R138, R221: one more TICK. -/
theorem IdleRun.tick {p : Regs} {n : Nat} {s t : State} (h : IdleRun p n s.regs) (hs : s.Inv)
    (ht : execTick s = .next t) : IdleRun p (n + 1) t.regs := by
  have henv := (execTick_envTicked hs ht).idle h.state
  obtain ⟨hshift, hmax, hcenter⟩ := execTick_keeps_lpShift_pwmRange ht
  obtain ⟨raw, hchain⟩ := execTick_chainTicked hs ht
  exact {
    state := henv.state
    lpShift := hshift.trans h.lpShift
    pwmMax := hmax.trans h.pwmMax
    pwmCenter := hcenter.trans h.pwmCenter
    lpPrev := by rw [hchain.lpPrev, henv.amp, scale_zero, h.lpShift, h.lpPrev, Function.iterate_succ_apply']
    silent := fun _ hlp => by simpa only [h.pwmMax, h.pwmCenter] using hchain.silent hlp }

/-- What each TICK carries from one number of pulses to the next holds after any number of them, and the run
completes. -/
theorem runSteps_withTicks_of_execTick (n : Nat) : ∀ {P : Nat → Regs → Prop} {s : State}, s.Inv →
    (∀ k (u v : State), u.Inv → execTick u = .next v → P k u.regs → P (k + 1) v.regs) → P 0 s.regs →
    ∃ t, runSteps n (s.withTicks n) = .next t ∧ P n t.regs := by
  induction n with
  | zero => exact fun {_ s} _ _ h => ⟨s.withTicks 0, rfl, h⟩
  | succ n ih =>
    intro P s hs hP h
    obtain ⟨t, hstep, htick⟩ := step_withTicks_succ hs n
    obtain ⟨u, hrun, hu⟩ := ih (P := fun k => P (k + 1)) (s := t) (step_inv hstep : (t.withTicks n).Inv)
      (fun k => hP (k + 1)) (hP 0 (s.withTicks n) (t.withTicks n) hs htick h)
    exact ⟨u, (runSteps_succ_of n hstep).trans hrun, hu⟩

end Sys2Proof.Machine

open Sys2Proof Sys2Proof.Machine

/-- Settles O18: the invariant gives the raw sample and the envelope step; what TICK writes is `tickRegs` of them, whose
chain is exact. -/
theorem tickPipeline : Obligations.TickPipeline := by
  intro s hs
  obtain ⟨t, ht⟩ := exec_completes .tick hs
  obtain ⟨raw, env, hraw, henv, rfl⟩ := execTick_next ht
  have hchain := tickRegs_chainTicked (rawSample_inRange hraw) (envProcess_amp_le hs henv) s.regs
  exact ⟨raw, env, _, ht, BitVec.toNat_add _ _, rfl, hraw, henv, rfl, rfl, rfl, hchain.lpPrev, hchain.sampleOut,
    hchain.pwmDuty, rfl⟩

/-- Settles O56: in IDLE the low-pass filter runs on the input 0, which it reaches within the longest run of R180. -/
theorem idleOutputSettles : Obligations.IdleOutputSettles := by
  intro s n hs hidle hn
  obtain ⟨t, hrun, hidleRun⟩ := runSteps_withTicks_of_execTick (P := IdleRun s.regs) n hs
    (fun _ _ _ hu huv h => h.tick hu huv) ⟨hidle, rfl, rfl, rfl, rfl, fun h => absurd rfl h⟩
  have hsettled := lowPass_iterate_settles s.regs.lpShift.isLt hn (x := 0) ⟨by decide, by decide⟩
    (inSampleRange_toInt s.regs.lpPrev)
  have hlp : t.regs.lpPrev = 0#16 := BitVec.eq_of_toInt_eq (hidleRun.lpPrev.trans hsettled)
  obtain ⟨hsample, hduty⟩ := hidleRun.silent (by omega) hlp
  exact ⟨t, hrun, hlp, hsample, hduty⟩
end

section
/-! PROOFS, family 60_exceptions. R240 to R243, R286: the error record. A word is rejected by the decoder or by its
instruction's range check, and both are the one operation `rejectCommand`. An instruction that is not rejected leaves the
record (`RegsWritten.sameErrorRecord`), and a rejection leaves a filled one (`recordError_of_set`). -/

namespace Sys2Proof.Machine

open Sys2Proof

/-! ### The error record (R46, R47) -/

/-- The two register files agree on ERR, ERR_CODE and ERR_WORD. -/
def SameErrorRecord (r q : Regs) : Prop := q.err = r.err ∧ q.errCode = r.errCode ∧ q.errWord = r.errWord

theorem SameErrorRecord.refl (r : Regs) : SameErrorRecord r r := ⟨rfl, rfl, rfl⟩

/-- R242: a rejection leaves a filled record. -/
theorem recordError_sameErrorRecord {r : Regs} (h : r.err = 1#1) (c : CmdError) (w : Word) :
    SameErrorRecord r (recordError c w r) := by
  rw [recordError_of_set h]
  exact .refl r

/-- R242: an empty record is filled and a filled one stays. -/
theorem recordError_eq_ite (c : CmdError) (w : Word) (r : Regs) :
    recordError c w r = if r.err = 0#1 then { r with err := 1#1, errCode := errorCode c, errWord := w } else r := by
  obtain hclear | hset := BitVec.eq_zero_or_eq_one r.err
  · rw [if_pos hclear, recordError_of_clear hclear]
  · rw [if_neg (by simp [hset]), recordError_of_set hset]

/-- R243, R254: no row of R83 writes the record but by a rejection. -/
theorem RegsWritten.sameErrorRecord {i : Instr} {s : State} {r : Regs} (h : RegsWritten i s r) :
    SameErrorRecord s.regs r := by
  cases i with
  | nop | setFreq _ | setAttack _ | setDecay _ | setRelease _ | setGain _ | setThresh _ _ | setLpShift _ | setPwmMax _
  | setPwmCenter _ | noteOn _ | filterReset | read _ =>
    cases h
    exact ⟨rfl, rfl, rfl⟩
  | setWave _ | setSustain _ =>
    obtain ⟨-, rfl⟩ := h
    exact ⟨rfl, rfl, rfl⟩
  | noteOff =>
    cases h
    split
    · exact ⟨rfl, rfl, rfl⟩
    · exact .refl _
  | tick =>
    obtain ⟨raw, env, -, -, rfl⟩ := h
    exact ⟨rfl, rfl, rfl⟩

/-! ### The range check (R243) -/

/-- R83: the range checks are those of SET_FREQ, SET_WAVE, SET_SUSTAIN and READ. -/
theorem failsRangeCheck_iff_not_wellFormed (i : Instr) : failsRangeCheck i ↔ ¬ i.WellFormed := by
  cases i <;> simp [failsRangeCheck, Instr.wellFormed]

/-- R242, R243: an instruction that fails its range check is rejected with RANGE. -/
theorem exec_of_failsRangeCheck {i : Instr} (h : failsRangeCheck i) (s : State) :
    exec i s = .next (rejectCommand .range (encode i) s) := by
  obtain rfl | ⟨v, rfl, hv⟩ | ⟨v, rfl, hv⟩ | ⟨a, rfl, ha⟩ := h
  · rfl
  · exact if_neg (not_le.2 hv)
  · exact if_neg (not_le.2 hv)
  · exact if_neg (not_le.2 ha)

/-- R243, R254: an instruction that passes its range check leaves the record. -/
theorem exec_sameErrorRecord_of_not_failsRangeCheck {i : Instr} {s t : State} (h : exec i s = .next t)
    (hcheck : ¬ failsRangeCheck i) : SameErrorRecord s.regs t.regs := by
  obtain hwritten | ⟨hfail, -⟩ := exec_regs h
  · exact hwritten.sameErrorRecord
  · exact absurd hfail hcheck

/-! ### A rejected word (R216, R241, R242) -/

/-- R216: the decoder rejects a word under the word itself. -/
theorem eq_of_decodeWord_eq_rejected {w v : Word} {c : CmdError} (h : decodeWord w = .rejected c v) : v = w := by
  unfold decodeWord at h
  split at h <;> cases h
  rfl

/-- R216, R243: a word is rejected by the decoder, or as the word of an instruction that fails its range check. -/
theorem rejectionOf_cases {w : Word} {c : CmdError} (h : rejectionOf w = some c) :
    decodeWord w = .rejected c w ∨
      ∃ i, decodeWord w = .instr i ∧ encode i = w ∧ failsRangeCheck i ∧ c = .range := by
  unfold rejectionOf at h
  split at h
  next c' v hdec =>
    cases h
    rw [hdec, eq_of_decodeWord_eq_rejected hdec]
    exact .inl rfl
  next i hdec =>
    obtain ⟨hword, -⟩ := decodeWord_eq_instr_iff_encode.1 hdec
    split at h <;> cases h
    next hcheck => exact .inr ⟨i, hdec, hword, (failsRangeCheck_iff_not_wellFormed i).2 hcheck, rfl⟩
  next => cases h

/-- R215: the transaction of a word that the decoder rejects asks for the rejection. -/
theorem commandAction_rejected {w : Word} {c : CmdError} (h : decodeWord w = .rejected c w) (s : State) :
    commandAction (bytesOfWord w) s = .reject c w s := by
  simp [commandAction, h]

/-- R242: the step that takes a rejected word is the rejection, whichever of the two checks the word fails. -/
theorem step_of_rejectionOf {s : State} {w : Word} {rest : List Event} {c : CmdError} (hs : s.Inv)
    (hp : s.pending = Event.word w :: rest) (h : rejectionOf w = some c) :
    step s = .next (rejectCommand c w (s.withPending rest)) := by
  have hnext : nextAction s = commandAction (bytesOfWord w) (s.withPending rest) := nextAction_command hp
  obtain hdec | ⟨i, hdec, rfl, hfail, rfl⟩ := rejectionOf_cases h
  · exact step_of_reject hs (hnext.trans (commandAction_rejected hdec _))
  · rw [step_of_run hs (hnext.trans (commandAction_word hdec _))]
    exact exec_of_failsRangeCheck hfail _

/-! ### The record along a step (R242, R286) -/

/-- R242: no instruction changes a filled record, rejected or not. -/
theorem exec_keeps_filled_record {i : Instr} {s t : State} (h : exec i s = .next t) (hset : s.regs.err = 1#1) :
    SameErrorRecord s.regs t.regs := by
  obtain hwritten | ⟨-, hr⟩ := exec_regs h
  · exact hwritten.sameErrorRecord
  · rw [hr]
    exact recordError_sameErrorRecord hset _ _

/-- R242: no step but reset changes a filled record. -/
theorem step_keeps_filled_record {s t : State} (h : step s = .next t) (hset : s.regs.err = 1#1)
    (hreset : s.pending.head? ≠ some .reset) : SameErrorRecord s.regs t.regs := by
  obtain ⟨-, hstep⟩ := step_cases h
  obtain ⟨rest, hp, -⟩ | ⟨-, ⟨-, rfl⟩ | ⟨i, u, hu, hexec⟩ | ⟨c, w, u, hu, rfl⟩⟩ := hstep
  · exact absurd (by rw [hp, List.head?_cons]) hreset
  · exact .refl _
  · obtain ⟨p, rfl⟩ := nextAction_state hu
    exact exec_keeps_filled_record (s := s.withPending p) hexec hset
  · obtain ⟨bs, rest, -, -, rfl⟩ := nextAction_reject hu
    rw [rejectCommand_regs]
    exact recordError_sameErrorRecord hset c w

/-- R270: a step that takes the reset input leaves the registers of R271. -/
theorem step_regs_of_reset {s t : State} (h : step s = .next t) (hreset : s.pending.head? = some .reset) :
    t.regs = Regs.reset := by
  obtain ⟨rest, hp⟩ := List.head?_eq_some_iff.1 hreset
  obtain ⟨hc, -⟩ := step_cases h
  have hnext : nextAction s = .reset (s.withPending rest) := by simp [nextAction, hp]
  rw [step_of_reset hc hnext] at h
  cases h
  exact resetRegs_regs _

end Sys2Proof.Machine

open Sys2Proof Sys2Proof.Machine

/-- Settles O37: the step that takes a rejected word is `rejectCommand` (`step_of_rejectionOf`), whose parts
`rejectCommand_spec` gives; a filled record is kept by every instruction and every rejection, and reset empties it. -/
theorem rejectedCommandRecords : Obligations.RejectedCommandRecords := by
  refine ⟨fun s w rest c hs hp hrej => ?_, fun s t h hset hreset => ?_, fun s t h hreset => ?_⟩
  · rw [step_of_rejectionOf hs hp hrej]
    obtain ⟨hregs, hconfig, hpending, hout⟩ := rejectCommand_spec c w (s.withPending rest)
    have hread : opField w = 0x20#8 ↔ w.toNat / 2 ^ 24 = 0x20 := opField_eq_code_iff (o := .read)
    refine congrArg Host.Outcome.next (State.ext_fields ?_ hconfig hpending ?_)
    · rw [hregs, recordError_eq_ite]
      cases c <;> rfl
    · simp only [hout, hread, State.withPending_outputs]
  · obtain ⟨herr, hcode, hword⟩ := step_keeps_filled_record h hset hreset
    exact ⟨herr.trans hset, hcode, hword⟩
  · rw [step_regs_of_reset h hreset]
    exact ⟨rfl, rfl, rfl⟩

/-- Settles O38: an instruction that fails its range check is `rejectCommand` with RANGE and its own word, and of what the
others write (`RegsWritten`) no part is in the record. -/
theorem onlyRangeCheckedCommandsRaise : Obligations.OnlyRangeCheckedCommandsRaise := by
  intro i s t h
  refine ⟨fun hfail => ?_, exec_sameErrorRecord_of_not_failsRangeCheck h⟩
  rw [exec_of_failsRangeCheck hfail] at h
  cases h
  rw [rejectCommand_regs]
  exact ⟨rfl, rfl, rfl⟩
end

section
/-! PROOFS, family 70_reset_and_hazards. R270, R271, R273: the reset input, and the silence that follows it. R281: TICK
and NOTE_OFF read nothing of the profile registers, so they commute with any change of them. -/

namespace Sys2Proof.Machine

open Sys2Proof

/-! ### The reset input (R270) -/

/-- R270: the reset input asks for reset, whatever the registers. -/
theorem nextAction_resetInput {s : State} {rest : List Event} (h : s.pending = .reset :: rest) :
    nextAction s = .reset (s.withPending rest) := by
  simp [nextAction, h]

/-! ### Silence (R221, R273) -/

/-- R221, R273: the block is idle and its filter is at rest, so that its range maps the sample 0 to the duty `d`. -/
structure Regs.Silent (d : BitVec 16) (r : Regs) : Prop where
  state : r.envState = envIdle
  lpPrev : r.lpPrev = 0#16
  sampleOut : r.sampleOut = 0#16
  duty : min r.pwmCenter.toNat r.pwmMax.toNat = d.toNat

/-- R271: the reset values are silent at the duty 512. -/
theorem Regs.reset_silent : Regs.reset.Silent 512#16 := ⟨rfl, rfl, rfl, rfl⟩

/-- R171: a filter at rest stays at rest on the input 0. -/
theorem lowPass_self (k : Nat) (x : Int) : lowPass k x x = x := by simp [lowPass]

/-- R138, R171: a TICK of an idle block leaves a filter at rest. -/
theorem ChainTicked.lpPrev_eq_zero {raw : Int} {r q : Regs} (h : ChainTicked raw r q) (hamp : q.envAmp.toNat = 0)
    (hlp : r.lpPrev = 0#16) : q.lpPrev = 0#16 := by
  have hnew := h.lpPrev
  rw [hamp, scale_zero, hlp, BitVec.toInt_zero, lowPass_self] at hnew
  exact BitVec.eq_of_toInt_eq hnew

/-- R221, R273: silence is kept by TICK, which shows its duty. -/
theorem Regs.Silent.tick {d : BitVec 16} {s t : State} (h : s.regs.Silent d) (hs : s.Inv) (ht : execTick s = .next t) :
    t.regs.Silent d ∧ t.outputs = s.outputs ++ [.pwm d] := by
  have henv := (execTick_envTicked hs ht).idle h.state
  obtain ⟨-, hmax, hcenter⟩ := execTick_keeps_lpShift_pwmRange ht
  obtain ⟨raw, hchain⟩ := execTick_chainTicked hs ht
  have hlp : t.regs.lpPrev = 0#16 := hchain.lpPrev_eq_zero henv.amp h.lpPrev
  obtain ⟨hsample, hduty⟩ := hchain.silent hlp
  have hshown : t.regs.pwmDuty = d := BitVec.eq_of_toNat_eq (hduty.trans h.duty)
  exact ⟨⟨henv.state, hlp, hsample, by rw [hmax, hcenter, h.duty]⟩, by rw [execTick_outputs ht, hshown]⟩

/-- R221, R273: TICKs alone leave a silent block silent, and each shows the one duty. -/
theorem runSteps_withTicks_of_silent {d : BitVec 16} (n : Nat) : ∀ {s : State}, s.Inv → s.regs.Silent d →
    ∃ t, runSteps n (s.withTicks n) = .next t ∧ t.outputs = s.outputs ++ List.replicate n (.pwm d) ∧
      t.regs.Silent d := by
  induction n with
  | zero => exact fun {s} _ h => ⟨s.withTicks 0, rfl, (List.append_nil s.outputs).symm, h⟩
  | succ n ih =>
    intro s hs h
    obtain ⟨t, hstep, htick⟩ := step_withTicks_succ hs n
    obtain ⟨hsilent, hshown⟩ := Regs.Silent.tick (s := s.withTicks n) (t := t.withTicks n) h hs htick
    obtain ⟨u, hrun, hout, hu⟩ := ih (s := t) (step_inv hstep : (t.withTicks n).Inv) hsilent
    refine ⟨u, (runSteps_succ_of n hstep).trans hrun, ?_, hu⟩
    calc u.outputs = t.outputs ++ List.replicate n (.pwm d) := hout
      _ = (s.outputs ++ [.pwm d]) ++ List.replicate n (.pwm d) := congrArg (· ++ _) hshown
      _ = s.outputs ++ List.replicate (n + 1) (.pwm d) := by rw [List.append_assoc]; rfl

/-! ### The profile registers (R281) -/

section Profile

variable (a d r : BitVec 16) (lvl : BitVec 10)

/-- The registers with another profile for the notes to come (R30 to R33). -/
def Regs.withProfile (q : Regs) : Regs := { q with attackMs := a, decayMs := d, sustainLvl := lvl, releaseMs := r }

/-- The state with another profile for the notes to come. -/
def State.withProfile (s : State) : State := s.withRegs (s.regs.withProfile a d r lvl)

/-- R220: the waveform does not read the profile. -/
theorem rawSample_withProfile (q : Regs) : rawSample (q.withProfile a d r lvl) = rawSample q := rfl

/-- R137 to R142: `EnvProcess` reads the latched profile only. -/
theorem envProcess_withProfile (q : Regs) : envProcess (q.withProfile a d r lvl) = envProcess q := rfl

/-- R220: what TICK writes does not depend on the profile, and is not in it. -/
theorem tickRegs_withProfile (raw : Int) (env : EnvStep) (q : Regs) :
    tickRegs raw env (q.withProfile a d r lvl) = (tickRegs raw env q).withProfile a d r lvl := rfl

/-- R281: TICK commutes with a change of the profile. -/
theorem execTick_withProfile {s t : State} (h : execTick s = .next t) :
    execTick (s.withProfile a d r lvl) = .next (t.withProfile a d r lvl) := by
  obtain ⟨raw, env, hraw, henv, rfl⟩ := execTick_next h
  have hraw' := (rawSample_withProfile a d r lvl s.regs).trans hraw
  have henv' := (envProcess_withProfile a d r lvl s.regs).trans henv
  rw [execTick_of (s := s.withProfile a d r lvl) hraw' henv']
  rfl

/-- R281: NOTE_OFF commutes with a change of the profile. -/
theorem execNoteOff_withProfile {s t : State} (h : execNoteOff s = .next t) :
    execNoteOff (s.withProfile a d r lvl) = .next (t.withProfile a d r lvl) := by
  obtain ⟨hheld, rfl⟩ | ⟨hheld, rfl⟩ := next_of_ite h
  · exact if_pos hheld
  · exact if_neg hheld

end Profile

end Sys2Proof.Machine

open Sys2Proof Sys2Proof.Machine

/-- Settles O55: the reset values are silent at the duty 512 (`Regs.reset_silent`), and a run of TICKs from a silent
block shows its duty once per TICK. -/
theorem resetIsSilent : Obligations.ResetIsSilent := by
  intro c n hc
  obtain ⟨t, hrun, hout, hsilent⟩ :=
    runSteps_withTicks_of_silent (s := { State.reset with config := c }) n ⟨hc, Regs.reset_wf⟩ Regs.reset_silent
  exact ⟨t, hrun, hout, hsilent.state, hsilent.sampleOut⟩

/-- Settles O57: each of the two instructions commutes with `State.withProfile`, from every state. -/
theorem profileIsLatched : Obligations.ProfileIsLatched := by
  rintro s t a d r lvl i (rfl | rfl) h
  · exact execTick_withProfile a d r lvl h
  · exact execNoteOff_withProfile a d r lvl h

/-- Settles O41: the read map of the reset values, entry by entry. -/
theorem resetValues : Obligations.ResetValues := ⟨by decide, by decide, by decide⟩

/-- Settles O42: the step takes the reset input (`step_of_reset`), which writes the registers and nothing else. -/
theorem resetInput : Obligations.ResetInput :=
  fun _ _ hc hp => step_of_reset hc (nextAction_resetInput hp)
end
